-- ==== Sys2Proof/Word.lean ====
section
/-! DEFINITION. The bit-vector types of the OTP token core: bytes, nibbles and the 32-bit words of the register window. -/

namespace Sys2Proof

/-- A byte of a buffer, a string or a token field (R12, R14). -/
abbrev Byte := BitVec 8

/-- A nibble, 4 bits (R16). -/
abbrev Nibble := BitVec 4

/-- A 32-bit word of the register window and of the bus (R23, R70). -/
abbrev Word := BitVec 32

end Sys2Proof
end

