-- ==== Sys2Proof/Config.lean ====
section
/-! DEFINITION. What an implementation fixes: the parameters R10 fixes, the parameters R11 leaves OPEN and the free values (93, part 1). -/

namespace Sys2Proof.Config

/-- `IN_SIZE`, the bytes of the IN buffer (R10). -/
abbrev inSize : Nat := 256

/-- `OUT_SIZE`, the bytes of the OUT buffer (R10, R37). -/
abbrev outSize : Nat := 512

/-- The bytes of the register window (R10, R23). -/
abbrev windowSize : Nat := 1024

/-- The window offset of the IN buffer (R23, R36). -/
abbrev inBase : Nat := 0x100

/-- The window offset of the OUT buffer (R23, R36). -/
abbrev outBase : Nat := 0x200

/-- `BASE_ADDR`, the bus address of the window: OPEN (R11, R88, U6). -/
opaque baseAddr : Nat

/-- `LATENCY`, the number of host steps between acceptance and the block's step, for the request of the given number: OPEN, finite (R11, R369, U5). -/
opaque latency : Nat → Nat

/-- Whether the entropy port answers `fail` to the request of the given number: a free value (R333, U3). -/
opaque entropyFails : Nat → Bool

/-- Byte `i` of the entropy port's answer to the request of the given number: a free value (R333, U3). -/
opaque entropyByte : Nat → Nat → Byte

/-- The time port's answer to the request of the given number: a free value in the unit and epoch of `TIME_SOURCE` (R332, U4). -/
opaque timeSample : Nat → Nat

/-- What the buffer byte at a window offset reads as in the read of the given number while nothing has written it: a free value (R40, U1). -/
opaque unwrittenByte : Nat → Nat → Byte

/-- What a result location reads as in the read of the given number while BUSY = 1: a free value (R79, U2). -/
opaque busyRead : Nat → Word

end Sys2Proof.Config
end

