-- ==== Sys2Proof/Machine/HostSyntax.lean ====
section
/-! DEFINITION. The host's statements (R106) and the replies it gets from the bus. These are the host agent's, not commands of the block. -/

namespace Sys2Proof.Machine

/-- The width of a bus access: 1, 2 or 4 bytes (R70). -/
inductive Width where
  | byte
  | half
  | word
  deriving DecidableEq, Repr

/-- One statement of a host program (R106); labels are numbers. `assertReset` is the model's own entry for the platform's reset input (R360). -/
inductive HostStmt where
  /-- `st8`, `st16`, `st32`: `MemWrite(a, n, v)`. -/
  | st (w : Width) (a : Nat) (v : Word)
  /-- `ld8`, `ld16`, `ld32`: `MemRead(a, n)`. -/
  | ld (w : Width) (a : Nat)
  /-- `rep N`: run the lines up to the matching `end` N times. -/
  | rep (n : Nat)
  /-- `end` of a `rep`. -/
  | endRep
  /-- `label:`. -/
  | label (l : Nat)
  /-- `bne_busy label`. -/
  | bneBusy (l : Nat)
  /-- The platform asserts the reset input at this point (R360, R361). -/
  | assertReset
  deriving DecidableEq, Repr

/-- What the bus answers to an access (R71, R75, R76). -/
inductive Reply where
  /-- A read's value, zero-extended to 32 bits. -/
  | data (v : Word)
  /-- A write was taken, ignored or dropped; the host cannot tell which from the reply. -/
  | ok
  /-- The bus-error response; it carries no data. -/
  | busError
  deriving DecidableEq, Repr

end Sys2Proof.Machine
end

