-- ==== Sys2Proof/Syntax.lean ====
section
/-! DEFINITION. The 20 commands of the block, one constructor for each row of spec/opcode_table.json (R102). -/

namespace Sys2Proof

/-- The commands of R102. No command has an operand in its word (R100, R103). -/
inductive Instr where
  /-- MH_IS_VALID, OP 0x10 (R137). -/
  | mhIsValid
  /-- MH_VALIDATE, OP 0x11 (R138). -/
  | mhValidate
  /-- MH_VALIDATE_LEN, OP 0x12 (R139). -/
  | mhValidateLen
  /-- MH_DECODE_HEX, OP 0x13 (R140). -/
  | mhDecodeHex
  /-- MH_DECODE_INT, OP 0x14 (R141). -/
  | mhDecodeInt
  /-- MH_ENCODE_HEX, OP 0x15 (R142). -/
  | mhEncodeHex
  /-- MH_ENCODE_BYTES, OP 0x16 (R143). -/
  | mhEncodeBytes
  /-- MH_DECODE_BYTES, OP 0x17 (R144). -/
  | mhDecodeBytes
  /-- MH_RANDOM, OP 0x18 (R145). -/
  | mhRandom
  /-- CRC16, OP 0x20 (R182). -/
  | crc16
  /-- CRC16_VERIFY, OP 0x21 (R183). -/
  | crc16Verify
  /-- AES_ENC, OP 0x30 (R212). -/
  | aesEnc
  /-- TOK_CREATE, OP 0x40 (R250). -/
  | tokCreate
  /-- TOK_GENERATE, OP 0x41 (R260). -/
  | tokGenerate
  /-- TOK_ADVANCE, OP 0x42 (R270). -/
  | tokAdvance
  /-- TOK_PUBID, OP 0x43 (R271). -/
  | tokPubid
  /-- TOK_EXPORT_KEY, OP 0x44 (R272). -/
  | tokExportKey
  /-- TOK_EXPORT_PRIVID, OP 0x45 (R273). -/
  | tokExportPrivid
  /-- OTP_VALIDATE, OP 0x50 (R301). -/
  | otpValidate
  /-- OTP_EXTRACT_PID, OP 0x51 (R302). -/
  | otpExtractPid
  deriving DecidableEq, Repr

end Sys2Proof
end

