-- ==== Sys2Proof/WellFormed.lean ====
section
/-! DEFINITION. Well-formedness: of commands (no command has an operand, so every one is well formed), of command words, and of the host's statements and programs. -/

namespace Sys2Proof

/-- A command is well formed: it has no operand field that could be out of range (R100, R103). -/
def Instr.wf (_ : Instr) : Bool := true

/-- A command word is well formed if RSVD, bits [31:8], is 0 (R100). -/
def wordWf (w : Word) : Bool := w.extractLsb' 8 24 == 0

namespace Machine

/-- The number of bytes of an access (R70). -/
def Width.bytes (w : Width) : Nat :=
  match w with
  | .byte => 1
  | .half => 2
  | .word => 4

/-- Whether the bus takes an access of this width at this window offset without a bus error (R71, R72). -/
def accessWf (w : Width) (a : Nat) : Bool :=
  if a < Config.inBase then w == .word && a % 4 == 0 else a % w.bytes == 0

/-- Whether an n-byte access carries an n-byte value (R70). -/
def valueWf (w : Width) (v : Word) : Bool := v.toNat < 2 ^ (8 * w.bytes)

/-- A statement is well formed: its access lies in the window, is aligned and carries a value of its width (R70 to R72). -/
def HostStmt.wf (st : HostStmt) : Bool :=
  match st with
  | .st w a v => a < Config.windowSize && accessWf w a && valueWf w v
  | .ld w a => a < Config.windowSize && accessWf w a
  | .rep _ => true
  | .endRep => true
  | .label _ => true
  | .bneBusy _ => true
  | .assertReset => true

/-- Whether every `end` closes a `rep` and every `rep` is closed, with `depth` loops open before the list (R106). -/
def loopsWf (depth : Nat) (p : List HostStmt) : Bool :=
  match p with
  | [] => depth == 0
  | .rep _ :: p => loopsWf (depth + 1) p
  | .endRep :: p => depth != 0 && loopsWf (depth - 1) p
  | _ :: p => loopsWf depth p

/-- Whether every branch has exactly one label to go to (R106). -/
def labelsWf (p : List HostStmt) : Bool :=
  p.all fun st =>
    match st with
    | .bneBusy l => p.count (.label l) == 1
    | _ => true

/-- A host program is well formed: its statements, its loops and its labels are. -/
def programWf (p : List HostStmt) : Bool := p.all HostStmt.wf && loopsWf 0 p && labelsWf p

end Machine

end Sys2Proof
end

