-- ==== Sys2Proof/Decode.lean ====
section
/-! DEFINITION. Decoding of command words, total and rejecting by name (R100 to R105), and the encoder written from the same table (R102). -/

namespace Sys2Proof

/-- Why bytes are no command. -/
inductive DecodeError where
  /-- Fewer than the four bytes of a command word (R101). -/
  | truncated
  /-- RSVD, bits [31:8], is not 0 (R104, R105). -/
  | reservedBits
  /-- OP, bits [7:0], is not in the map of R102 (R104, R105). -/
  | reservedOp
  deriving DecidableEq, Repr

/-- RSVD = CMD[31:8] (R100). -/
def rsvdField (w : Word) : BitVec 24 := w.extractLsb' 8 24

/-- FAM = CMD[7:4] (R100). -/
def famField (w : Word) : Nibble := w.extractLsb' 4 4

/-- FN = CMD[3:0] (R100). -/
def fnField (w : Word) : Nibble := w.extractLsb' 0 4

/-- The functions of family 0x1, the modhex codec (R102). -/
def modhexFn (fn : Nibble) : Option Instr :=
  match fn.toNat with
  | 0x0 => some .mhIsValid
  | 0x1 => some .mhValidate
  | 0x2 => some .mhValidateLen
  | 0x3 => some .mhDecodeHex
  | 0x4 => some .mhDecodeInt
  | 0x5 => some .mhEncodeHex
  | 0x6 => some .mhEncodeBytes
  | 0x7 => some .mhDecodeBytes
  | 0x8 => some .mhRandom
  | _ => none

/-- The functions of family 0x2, CRC-16 (R102). -/
def crcFn (fn : Nibble) : Option Instr :=
  match fn.toNat with
  | 0x0 => some .crc16
  | 0x1 => some .crc16Verify
  | _ => none

/-- The functions of family 0x3, AES-128 (R102). -/
def aesFn (fn : Nibble) : Option Instr :=
  match fn.toNat with
  | 0x0 => some .aesEnc
  | _ => none

/-- The functions of family 0x4, the token (R102). -/
def tokenFn (fn : Nibble) : Option Instr :=
  match fn.toNat with
  | 0x0 => some .tokCreate
  | 0x1 => some .tokGenerate
  | 0x2 => some .tokAdvance
  | 0x3 => some .tokPubid
  | 0x4 => some .tokExportKey
  | 0x5 => some .tokExportPrivid
  | _ => none

/-- The functions of family 0x5, the OTP parser (R102). -/
def otpFn (fn : Nibble) : Option Instr :=
  match fn.toNat with
  | 0x0 => some .otpValidate
  | 0x1 => some .otpExtractPid
  | _ => none

/-- The command of OP = {FAM, FN}, none for the 236 reserved values (R102, R105). -/
def opCommand (fam fn : Nibble) : Option Instr :=
  match fam.toNat with
  | 0x1 => modhexFn fn
  | 0x2 => crcFn fn
  | 0x3 => aesFn fn
  | 0x4 => tokenFn fn
  | 0x5 => otpFn fn
  | _ => none

/-- Decodes a 32-bit command word: one of the 20 commands, or illegal by name (R104, R105). -/
def decodeWord (w : Word) : Except DecodeError Instr :=
  if rsvdField w ≠ 0 then .error .reservedBits
  else
    match opCommand (famField w) (fnField w) with
    | some i => .ok i
    | none => .error .reservedOp

/-- Four bytes as a word, the first byte in bits [7:0] (R73). -/
def wordOfBytes (b0 b1 b2 b3 : Byte) : Word := b3 ++ b2 ++ b1 ++ b0

/-- The four bytes of a word, bits [7:0] first (R73). -/
def bytesOfWord (w : Word) : List Byte :=
  [w.extractLsb' 0 8, w.extractLsb' 8 8, w.extractLsb' 16 8, w.extractLsb' 24 8]

/-- Decodes the command at the head of a byte sequence and gives the bytes after it; every command is four bytes long (R101). -/
def decode (bs : List Byte) : Except DecodeError (Instr × List Byte) :=
  match bs with
  | b0 :: b1 :: b2 :: b3 :: rest =>
    match decodeWord (wordOfBytes b0 b1 b2 b3) with
    | .ok i => .ok (i, rest)
    | .error e => .error e
  | _ => .error .truncated

/-- OP of a command (R102). -/
def Instr.op (i : Instr) : Byte :=
  match i with
  | .mhIsValid => 0x10
  | .mhValidate => 0x11
  | .mhValidateLen => 0x12
  | .mhDecodeHex => 0x13
  | .mhDecodeInt => 0x14
  | .mhEncodeHex => 0x15
  | .mhEncodeBytes => 0x16
  | .mhDecodeBytes => 0x17
  | .mhRandom => 0x18
  | .crc16 => 0x20
  | .crc16Verify => 0x21
  | .aesEnc => 0x30
  | .tokCreate => 0x40
  | .tokGenerate => 0x41
  | .tokAdvance => 0x42
  | .tokPubid => 0x43
  | .tokExportKey => 0x44
  | .tokExportPrivid => 0x45
  | .otpValidate => 0x50
  | .otpExtractPid => 0x51

/-- The command word of a command: OP zero-extended to 32 bits (R100, R108). -/
def encodeWord (i : Instr) : Word := i.op.zeroExtend 32

/-- The command word as the four bytes of a little-endian access (R73, R101). -/
def encode (i : Instr) : List Byte := bytesOfWord (encodeWord i)

/-- The command word that the opcode table's row of `nbits` bits with the value `w` stands for: every bit above `nbits` is 0. -/
def tableWord (nbits w : Nat) : Word := BitVec.ofNat 32 (w % 2 ^ nbits)

/-- The command that the decoder reads from the opcode table's word, laid out in bytes as the bus stores it (R73). -/
def decodeTableWord (nbits w : Nat) : Option Instr :=
  match decode (bytesOfWord (tableWord nbits w)) with
  | .ok (i, _) => some i
  | .error _ => none

end Sys2Proof
end

