-- ==== Sys2Proof/Machine/State.lean ====
section
/-! DEFINITION. The state of the machine (10_state.md), the reasons a step can stop, and the state after reset (R42, R360). -/

namespace Sys2Proof.Machine

/-- The error names of R320; their codes are `ErrCode.code`. -/
inductive ErrCode where
  /-- No error. -/
  | success
  | invalidModhexChar
  | invalidModhexLength
  | invalidHexInput
  | invalidPublicId
  | invalidPrivateId
  | invalidSecretKey
  | otpInvalidLength
  | otpInvalidFormat
  | randomSourceFailure
  /-- Reserved by R213; the block never raises it. -/
  | cipherInitFailure
  | illegalCommand
  | argumentRange
  | noToken
  deriving DecidableEq, Repr

/-- What `raise E(detail, info)` carries (R13, R326). -/
structure CmdError where
  code : ErrCode
  detail : Byte
  info : Word
  deriving DecidableEq, Repr

/-- CFG, the construction configuration for TOK_CREATE (R28); bits [7:3] are reserved. -/
structure Cfg where
  pubP : Bool
  privP : Bool
  keyP : Bool
  pubLen : Byte
  privLen : Byte
  keyLen : Byte
  deriving DecidableEq, Repr

/-- The token register file (R33). -/
structure Token where
  valid : Bool
  /-- 12 ASCII characters. -/
  publicId : Vector Byte 12
  privateId : Vector Byte 6
  secretKey : Vector Byte 16
  counter : BitVec 16
  sessionUse : BitVec 8
  timestamp : BitVec 24
  randomSeed : BitVec 16
  deriving DecidableEq, Repr

/-- The IN and OUT buffers by window offset: the bytes written since reset, offsets strictly rising (R36). A byte that is not listed has never been written (R40). -/
abbrev Memory := List Host.Cell

/-- The host agent (R17, R106): the model's own record of the host's program and what it has seen. -/
structure Agent where
  /-- The statements of the host's program. -/
  prog : List HostStmt
  /-- The index of the next statement. -/
  pos : Nat
  /-- The open `rep` loops, innermost first: the index of the first line and how many more rounds follow this one. -/
  loops : List (Nat × Nat)
  /-- BUSY as the last `ld32 STATUS` saw it, none before the first. -/
  lastBusy : Option Bool
  /-- The replies of the bus, oldest first (R370). -/
  replies : List Reply
  deriving DecidableEq, Repr

/-- What the environment has in store for the block, oldest first (R17, R332, R333): the model's own inputs. Past the end of a list the free values of Config answer. -/
structure Ports where
  /-- The answers to entropy requests: bytes, or none for `fail`. -/
  entropy : List (Option (List Byte))
  /-- The samples of the time port. -/
  time : List Nat
  /-- The numbers of host steps between acceptance and the block's step. -/
  latency : List Nat
  deriving DecidableEq, Repr

/-- The state of the machine. STATUS.BUSY is `pend ≠ none` (R38) and STATUS.TOKEN_VALID is `tok.valid` (R25): each has that one home. -/
structure State where
  /-- The pending-command latch (R38). -/
  pend : Option Word
  /-- STATUS.DONE (R25). -/
  done : Bool
  /-- STATUS.ERR (R25). -/
  err : Bool
  /-- STATUS.OVR (R25). -/
  ovr : Bool
  /-- STATUS.ERR_CODE (R25, R320). -/
  errCode : ErrCode
  /-- STATUS.ERR_DETAIL (R25, R321). -/
  errDetail : Byte
  /-- IN_LEN[8:0] (R26). -/
  inLen : BitVec 9
  /-- ARG (R27). -/
  arg : Word
  /-- CFG (R28). -/
  cfg : Cfg
  /-- OUT_LEN[9:0] (R29). -/
  outLen : BitVec 10
  /-- ERR_INFO (R30). -/
  errInfo : Word
  /-- RES_BOOL[0] (R31). -/
  resBool : Bool
  /-- RES_CRC[15:0] (R31). -/
  resCrc : BitVec 16
  /-- RES_INT_LO (R31). -/
  resIntLo : Word
  /-- RES_INT_HI (R31). -/
  resIntHi : Word
  /-- RES_COUNTER[15:0] (R31). -/
  resCounter : BitVec 16
  /-- RES_SESSION[7:0] (R31). -/
  resSession : BitVec 8
  /-- RES_TIMESTAMP[23:0] (R31). -/
  resTimestamp : BitVec 24
  /-- The token register file (R33). -/
  tok : Token
  /-- The IN and OUT buffers (R36). -/
  mem : Memory
  /-- The model's own: the number of the next request to the free values. -/
  draws : Nat
  /-- The model's own: how many host statements come before the block's step of the pending command (R11, R369). -/
  delay : Nat
  /-- The model's own: what the environment has in store (R17). -/
  ports : Ports
  /-- The model's own: the host agent (R17). -/
  agent : Agent
  deriving DecidableEq, Repr

/-- Why the machine stops. No command of the block stops it: each raises these only for a host program outside the spec's notation. -/
inductive Fault where
  /-- Raised by the host's step for an access at an offset of 0x400 or more, which is no offset of the window (R70). Safe: the run ends. -/
  | outsideWindow
  /-- Raised by the host's step for a `bne_busy` that is taken to a label that the program does not hold (R106). Safe: the run ends. -/
  | noSuchLabel
  /-- Raised by the host's step for `bne_busy` before any `ld32 STATUS` (R106). Safe: the run ends. -/
  | branchBeforeStatus
  /-- Raised by the host's step for a `rep` without its `end`, or an `end` without its `rep` (R106). Safe: the run ends. -/
  | unmatchedLoop
  deriving DecidableEq, Repr

/-- Why there is no meaning for an instruction. -/
inductive Refusal where
  /-- Raised by `exec` for an instruction not modelled; no instruction is left in that case. Safe: the run ends. -/
  | notModelled (mnemonic : String)
  deriving DecidableEq, Repr

/-- CFG after reset (R42). -/
def Cfg.zero : Cfg := ⟨false, false, false, 0, 0, 0⟩

/-- The token register file after reset (R42). -/
def Token.zero : Token :=
  { valid := false
    publicId := Vector.replicate 12 0
    privateId := Vector.replicate 6 0
    secretKey := Vector.replicate 16 0
    counter := 0
    sessionUse := 0
    timestamp := 0
    randomSeed := 0 }

/-- A host agent without a program. -/
def Agent.idle : Agent := ⟨[], 0, [], none, []⟩

/-- An environment of which nothing is known. -/
def Ports.free : Ports := ⟨[], [], []⟩

/-- The machine after reset (R42, R360); no host program is placed in it. -/
def State.reset : State :=
  { pend := none
    done := false
    err := false
    ovr := false
    errCode := .success
    errDetail := 0
    inLen := 0
    arg := 0
    cfg := Cfg.zero
    outLen := 0
    errInfo := 0
    resBool := false
    resCrc := 0
    resIntLo := 0
    resIntHi := 0
    resCounter := 0
    resSession := 0
    resTimestamp := 0
    tok := Token.zero
    mem := []
    draws := 0
    delay := 0
    ports := Ports.free
    agent := Agent.idle }

end Sys2Proof.Machine
end

