-- ==== Sys2Proof/Machine/Ops.lean ====
section
/-! DEFINITION. The shared operations: the buffers' bytes, draws, completing a command with success or with an error (R325, R326) and accepting the next one (R77). -/

namespace Sys2Proof.Machine

/-- The outcome of a step of this machine. -/
abbrev Out := Host.Outcome State Fault Refusal

/-! ### Bytes of the buffers (R36, R40, R73) -/

/-- The byte written last at an offset, none if nothing has written it since reset (R40). -/
def Memory.read (m : Memory) (a : Nat) : Option Byte :=
  match m with
  | [] => none
  | (k, v) :: m => if k = a then some v else Memory.read m a

/-- Stores one byte and keeps the offsets strictly rising. -/
def Memory.write (m : Memory) (a : Nat) (b : Byte) : Memory :=
  match m with
  | [] => [(a, b)]
  | (k, v) :: m =>
    if a < k then (a, b) :: (k, v) :: m
    else if a = k then (a, b) :: m
    else (k, v) :: Memory.write m a b

/-- Stores bytes at consecutive offsets, the first at `a` (R73). -/
def Memory.writeBytes (m : Memory) (a : Nat) (bs : List Byte) : Memory :=
  match bs with
  | [] => m
  | b :: bs => Memory.writeBytes (Memory.write m a b) (a + 1) bs

/-- Whether the offsets of a memory rise strictly from `lo` on and stay below `hi`. -/
def Memory.risesFrom (lo hi : Nat) (m : Memory) : Bool :=
  match m with
  | [] => true
  | (k, _) :: m => decide (lo ≤ k ∧ k < hi) && Memory.risesFrom (k + 1) hi m

/-- The canonical form: offsets strictly rising, all of them in the IN and OUT buffers (R36). An unlisted byte reads as a fresh draw (R40), so no listed value could be left out. -/
def Memory.wf (m : Memory) : Bool := Memory.risesFrom Config.inBase Config.windowSize m

/-- The number of the next request moves on. -/
def tick (s : State) : State := { s with draws := s.draws + 1 }

/-- The byte a read finds at a window offset: the one written last, or a draw where nothing has been written (R40). -/
def bufferByte (s : State) (a : Nat) : Byte :=
  (Memory.read s.mem a).getD (Config.unwrittenByte s.draws a)

/-- `n` bytes from a window offset on, as one read of request number `s.draws` finds them (R40). -/
def bufferBytes (s : State) (a n : Nat) : List Byte :=
  (List.range n).map fun i => bufferByte s (a + i)

/-- `IN[0..n)` (R13, R36). -/
def inBytes (s : State) (n : Nat) : List Byte := bufferBytes s Config.inBase n

/-- A command that produces the byte string `r`: `OUT[0..len(r)) <- r` and `reg OUT_LEN <- len(r)`; the rest of OUT is left (R36). -/
def writeOut (r : List Byte) (s : State) : State :=
  { s with mem := Memory.writeBytes s.mem Config.outBase r, outLen := BitVec.ofNat 10 r.length }

/-- A byte list as a token field of `n` bytes; the lists given are `n` bytes long. -/
def packBytes (n : Nat) (l : List Byte) : Vector Byte n :=
  ⟨⟨(List.range n).map fun i => l.getD i 0⟩, by simp⟩

/-- The bytes of a token field, byte 0 first (R33). -/
def fieldBytes {n : Nat} (v : Vector Byte n) : List Byte := v.toArray.toList

/-! ### Requests to the environment (R13, R332, R333, R369) -/

/-- `n` bytes of an answer; a byte the answer does not hold is a draw. -/
def fitAnswer (d n : Nat) (bs : List Byte) : List Byte :=
  (List.range n).map fun i => bs.getD i (Config.entropyByte d i)

/-- What the entropy port answers to the next request `Entropy(n)`: `n` bytes, or none for `fail` (R333). -/
def nextEntropy (n : Nat) (s : State) : Option (List Byte) :=
  match s.ports.entropy with
  | [] => if Config.entropyFails s.draws then none else some (fitAnswer s.draws n [])
  | a :: _ => a.map (fitAnswer s.draws n)

/-- The next entropy request has been answered. -/
def popEntropy (s : State) : State := { tick s with ports := { s.ports with entropy := s.ports.entropy.tail } }

/-- The next sample of the time port, `Time()` (R332). -/
def nextTime (s : State) : Nat := s.ports.time.headD (Config.timeSample s.draws)

/-- The next time sample has been taken. -/
def popTime (s : State) : State := { tick s with ports := { s.ports with time := s.ports.time.tail } }

/-- The low 24 bits of the next time sample (R256). -/
def nextStamp (s : State) : BitVec 24 := BitVec.ofNat 24 (nextTime s)

/-- How many host steps come before the block's step of the next accepted command (R369). -/
def nextLatency (s : State) : Nat := s.ports.latency.headD (Config.latency s.draws)

/-- The next latency has been taken. -/
def popLatency (s : State) : State := { tick s with ports := { s.ports with latency := s.ports.latency.tail } }

/-! ### Completion (R324 to R326) and acceptance (R77) -/

/-- `complete` (R325): the command ends with success, `pend` becomes none and BUSY with it (R38, R324). ERR_INFO is 0 after it (R30). -/
def complete (s : State) : State :=
  { s with pend := none, done := true, err := false, errCode := .success, errDetail := 0, errInfo := 0 }

/-- `raise E(d, i)` (R326): the command ends with an error. This is how the block takes an exception: it records code, detail and info and is idle again; nothing is saved and no control moves (R329). -/
def raise (x : CmdError) (s : State) : State :=
  { s with pend := none, done := true, err := true, errCode := x.code, errDetail := x.detail, errInfo := x.info }

/-- A command word is latched and the status of the last command is cleared (R77). There is no return from an error: this is what clears it (R330). -/
def latchCommand (v : Word) (s : State) : State :=
  { s with pend := some v, done := false, err := false, errCode := .success, errDetail := 0, errInfo := 0 }

/-- A write to CMD while BUSY = 0 accepts a command (R77); its step follows after as many host steps as `LATENCY` says (R369). -/
def acceptCommand (v : Word) (s : State) : State :=
  { popLatency (latchCommand v s) with delay := nextLatency s }

/-- How a command ends: with the effect of its result and `complete`, or with its first error and no effect (R325, R326, R329). -/
def finish {α : Type} (r : Except CmdError α) (effect : α → State → State) (s : State) : State :=
  match r with
  | .ok a => complete (effect a s)
  | .error x => raise x s

/-- A command whose success writes nothing but STATUS and ERR_INFO (R103). -/
def noEffect (_ : Unit) (s : State) : State := s

end Sys2Proof.Machine
end

