-- ==== Sys2Proof/Machine/Flags.lean ====
section
/-! DEFINITION. STATUS and its fields (R25, R320), the result flags (R31, R41) and the counters that wrap (R41). -/

namespace Sys2Proof.Machine

/-- STATUS.BUSY = 1 exactly when `pend` is not none (R38). -/
def State.busy (s : State) : Bool := s.pend.isSome

/-- The ERR_CODE values (R320). -/
def ErrCode.code (c : ErrCode) : Byte :=
  match c with
  | .success => 0x00
  | .invalidModhexChar => 0x01
  | .invalidModhexLength => 0x02
  | .invalidHexInput => 0x03
  | .invalidPublicId => 0x04
  | .invalidPrivateId => 0x05
  | .invalidSecretKey => 0x06
  | .otpInvalidLength => 0x07
  | .otpInvalidFormat => 0x08
  | .randomSourceFailure => 0x09
  | .cipherInitFailure => 0x0A
  | .illegalCommand => 0x10
  | .argumentRange => 0x11
  | .noToken => 0x12

/-- A flag as one bit. -/
def bit (b : Bool) : BitVec 1 := if b then 1 else 0

/-- STATUS as it is read (R25): reserved, ERR_DETAIL, ERR_CODE, reserved, OVR, TOKEN_VALID, ERR, DONE, BUSY from bit 31 down. -/
def statusWord (s : State) : Word :=
  (0 : BitVec 8) ++ s.errDetail ++ s.errCode.code ++ (0 : BitVec 3) ++ bit s.ovr ++ bit s.tok.valid ++ bit s.err ++ bit s.done ++ bit s.busy

/-- `reg RES_BOOL <- b` (R31). -/
def setResBool (b : Bool) (s : State) : State := { s with resBool := b }

/-- `reg RES_CRC <- c` (R31). -/
def setResCrc (c : BitVec 16) (s : State) : State := { s with resCrc := c }

/-- `reg RES_INT_HI <- v[63:32]; reg RES_INT_LO <- v[31:0]` (R31, R141). -/
def setResInt (v : BitVec 64) (s : State) : State :=
  { s with resIntHi := v.extractLsb' 32 32, resIntLo := v.extractLsb' 0 32 }

/-- The session-use counter's increment, modulo 2^8; it sets no flag (R41, R261). -/
def nextSession (n : BitVec 8) : BitVec 8 := n + 1

/-- The counter's increment, modulo 2^16; it sets no flag (R41, R270). -/
def nextCounter (n : BitVec 16) : BitVec 16 := n + 1

end Sys2Proof.Machine
end

