-- ==== Sys2Proof/Machine/Operands.lean ====
section
/-! DEFINITION. The operands of commands (R103): the input string S (R134), ARG (R27) and CFG (R28), and the checks that guard them. -/

namespace Sys2Proof.Machine

/-- An error without info (R323). -/
def err0 (c : ErrCode) (d : Byte) : CmdError := ⟨c, d, 0⟩

/-- The index of a character as ERR_INFO holds it (R30, R323). -/
def infoIndex (i : Nat) : Word := BitVec.ofNat 32 i

/-- L = IN_LEN[8:0], zero-extended (R103, R134). -/
def inLength (s : State) : Nat := s.inLen.toNat

/-- The input string `S = IN[0..L)` (R134). -/
def inputString (s : State) : List Byte := inBytes s (inLength s)

/-- The check of R134: ArgumentRange detail 1 if IN_LEN exceeds `IN_SIZE`. -/
def checkInLen (s : State) : Except CmdError Unit :=
  if Config.inSize < inLength s then .error (err0 .argumentRange 1) else .ok ()

/-- A command on the input string: the check of R134, one read of S, the operation `f` on it, and the effect of its result. -/
def runString {α : Type} (f : List Byte → Except CmdError α) (effect : α → State → State) (s : State) : State :=
  match checkInLen s with
  | .error x => raise x s
  | .ok () => finish (f (inputString s)) effect (tick s)

/-- N of MH_VALIDATE_LEN and the length of MH_RANDOM: ARG[31:0] (R27). -/
def argLength (s : State) : Nat := s.arg.toNat

/-- The expected CRC of CRC16_VERIFY: ARG[15:0] (R27). -/
def argCrc (s : State) : BitVec 16 := s.arg.extractLsb' 0 16

/-- CFG from a written word; bits [7:3] are ignored (R24, R28). -/
def Cfg.ofWord (v : Word) : Cfg :=
  { pubP := v.getLsbD 0
    privP := v.getLsbD 1
    keyP := v.getLsbD 2
    pubLen := v.extractLsb' 8 8
    privLen := v.extractLsb' 16 8
    keyLen := v.extractLsb' 24 8 }

/-- CFG as it is read; bits [7:3] read 0 (R24, R28). -/
def Cfg.toWord (c : Cfg) : Word :=
  c.keyLen ++ c.privLen ++ c.pubLen ++ (0 : BitVec 5) ++ bit c.keyP ++ bit c.privP ++ bit c.pubP

/-- The bytes a field takes in IN: its length field if it is present, 0 if not (R250, R251). -/
def presentLen (p : Bool) (n : Byte) : Nat := if p then n.toNat else 0

/-- The check of R274: NoToken unless a token exists. -/
def checkToken (s : State) : Except CmdError Unit :=
  if s.tok.valid then .ok () else .error (err0 .noToken 0)

end Sys2Proof.Machine
end

