-- ==== Sys2Proof/Machine/Modhex.lean ====
section
/-! DEFINITION. The modhex codec (40_modhex.md): its tables, its operations on byte strings and its nine commands. -/

namespace Sys2Proof.Machine

/-! ### Tables (R130 to R133) -/

/-- The alphabet in nibble order, the string cbdefghijklnrtuv (R130). -/
def modhexAlphabet : List Byte :=
  [0x63, 0x62, 0x64, 0x65, 0x66, 0x67, 0x68, 0x69, 0x6A, 0x6B, 0x6C, 0x6E, 0x72, 0x74, 0x75, 0x76]

/-- MH(n), the character of a nibble (R130). -/
def mh (n : Nibble) : Byte := modhexAlphabet.getD n.toNat 0

/-- isMH(c) (R131). -/
def isMh (c : Byte) : Bool := modhexAlphabet.contains c

/-- MHinv(c), the nibble of an alphabet character (R131). -/
def mhInv (c : Byte) : Nibble := BitVec.ofNat 4 (modhexAlphabet.idxOf c)

/-- isHex(c): a digit, a lowercase or an uppercase hexadecimal letter (R132). -/
def isHex (c : Byte) : Bool :=
  (0x30 ≤ c && c ≤ 0x39) || (0x61 ≤ c && c ≤ 0x66) || (0x41 ≤ c && c ≤ 0x46)

/-- hexval(c) of a hexadecimal character (R132). -/
def hexVal (c : Byte) : Nibble :=
  BitVec.ofNat 4 (if c ≤ 0x39 then c.toNat - 0x30 else if c ≤ 0x46 then c.toNat - 0x41 + 10 else c.toNat - 0x61 + 10)

/-- hexchar(n), lowercase (R132). -/
def hexChar (n : Nibble) : Byte :=
  BitVec.ofNat 8 (if n.toNat < 10 then 0x30 + n.toNat else 0x61 + (n.toNat - 10))

/-- Bits [7:4] of a byte. -/
def hiNibble (b : Byte) : Nibble := b.extractLsb' 4 4

/-- Bits [3:0] of a byte. -/
def loNibble (b : Byte) : Nibble := b.extractLsb' 0 4

/-- MHbytes(b): two characters per byte, high nibble first (R133). -/
def mhBytes (b : List Byte) : List Byte :=
  match b with
  | [] => []
  | x :: b => mh (hiNibble x) :: mh (loNibble x) :: mhBytes b

/-! ### Operations (R135 to R145) -/

/-- The first index whose character fails a test (R327: the lowest index is reported). -/
def firstBad (ok : Byte → Bool) (s : List Byte) : Option Nat := s.findIdx? fun c => !ok c

/-- A scan of every character: the error of the first offending index, if there is one. -/
def scan (ok : Byte → Bool) (c : ErrCode) (d : Byte) (s : List Byte) : Except CmdError Unit :=
  match firstBad ok s with
  | some i => .error ⟨c, d, infoIndex i⟩
  | none => .ok ()

/-- V(s): non-empty and every character in the alphabet; no parity is checked (R135, C1). -/
def validate (s : List Byte) : Except CmdError Unit :=
  if s.length = 0 then .error (err0 .invalidModhexLength 1) else scan isMh .invalidModhexChar 0 s

/-- `is_valid_modhex(s)` (R137). -/
def isValidModhex (s : List Byte) : Bool := decide (0 < s.length) && s.all isMh

/-- `validate_with_length(s, n)` (R139). -/
def validateLen (n : Nat) (s : List Byte) : Except CmdError Unit :=
  if s.length ≠ n then .error (err0 .invalidModhexLength 2) else validate s

/-- `decode_to_hex(modhex)` (R140). -/
def decodeHex (s : List Byte) : Except CmdError (List Byte) := do
  validate s
  return s.map fun c => hexChar (mhInv c)

/-- A modhex string as a base-16 number, the first character most significant (R141). -/
def modhexValue (s : List Byte) : Nat := s.foldl (fun v c => v * 16 + (mhInv c).toNat) 0

/-- `decode_to_int(modhex)` (R141). -/
def decodeInt (s : List Byte) : Except CmdError (BitVec 64) := do
  validate s
  if 16 < s.length then throw (err0 .invalidModhexLength 3)
  return BitVec.ofNat 64 (modhexValue s)

/-- `encode_from_hex(hex)`: odd length first, then the first bad character (R142). -/
def encodeHex (s : List Byte) : Except CmdError (List Byte) := do
  if s.length % 2 ≠ 0 then throw (err0 .invalidHexInput 1)
  scan isHex .invalidHexInput 2 s
  return s.map fun c => mh (hexVal c)

/-- `encode_bytes(bytes)`: it cannot fail (R143). -/
def encodeBytes (s : List Byte) : Except CmdError (List Byte) := .ok (mhBytes s)

/-- The bytes of the character pairs of a modhex string, `16 * MHinv(S[2j]) + MHinv(S[2j+1])` (R144). -/
def pairBytes (s : List Byte) : List Byte :=
  match s with
  | c :: d :: s => (mhInv c ++ mhInv d) :: pairBytes s
  | _ => []

/-- `decode_bytes(modhex)` (R144). -/
def decodeBytes (s : List Byte) : Except CmdError (List Byte) := do
  validate s
  if s.length % 2 ≠ 0 then throw (err0 .invalidModhexLength 4)
  return pairBytes s

/-- The checks of `random_modhex(n)` (R145). -/
def checkRandomLen (n : Nat) : Except CmdError Unit :=
  if Config.outSize < n then .error (err0 .argumentRange 2)
  else if n % 2 ≠ 0 then .error (err0 .invalidModhexLength 5)
  else .ok ()

/-! ### Commands -/

/-- MH_IS_VALID (R137). -/
def execMhIsValid (s : State) : Out :=
  .next (runString (fun S => .ok (isValidModhex S)) setResBool s)

/-- MH_VALIDATE (R138). -/
def execMhValidate (s : State) : Out := .next (runString validate noEffect s)

/-- MH_VALIDATE_LEN (R139). -/
def execMhValidateLen (s : State) : Out :=
  .next (runString (validateLen (argLength s)) noEffect s)

/-- MH_DECODE_HEX (R140). -/
def execMhDecodeHex (s : State) : Out := .next (runString decodeHex writeOut s)

/-- MH_DECODE_INT (R141). -/
def execMhDecodeInt (s : State) : Out := .next (runString decodeInt setResInt s)

/-- MH_ENCODE_HEX (R142). -/
def execMhEncodeHex (s : State) : Out := .next (runString encodeHex writeOut s)

/-- MH_ENCODE_BYTES (R143). -/
def execMhEncodeBytes (s : State) : Out := .next (runString encodeBytes writeOut s)

/-- MH_DECODE_BYTES (R144). -/
def execMhDecodeBytes (s : State) : Out := .next (runString decodeBytes writeOut s)

/-- The effect of MH_RANDOM (R145): a length of 0 makes no request; IN and IN_LEN are not read. -/
def mhRandom (s : State) : State :=
  match checkRandomLen (argLength s) with
  | .error x => raise x s
  | .ok () =>
    if argLength s = 0 then complete (writeOut [] s)
    else
      match nextEntropy (argLength s / 2) s with
      | none => raise (err0 .randomSourceFailure 0) (popEntropy s)
      | some b => complete (writeOut (mhBytes b) (popEntropy s))

/-- MH_RANDOM (R145). -/
def execMhRandom (s : State) : Out := .next (mhRandom s)

end Sys2Proof.Machine
end

