-- ==== Sys2Proof/Machine/Otp.lean ====
section
/-! DEFINITION. The OTP syntax parser (44_otp_parser.md) and its two commands. It never decrypts and never checks a CRC (R303). -/

namespace Sys2Proof.Machine

/-- The syntax of an OTP: 44 characters, then every one in the alphabet (R300, R301). -/
def checkOtp (s : List Byte) : Except CmdError Unit :=
  if s.length ≠ 44 then .error (err0 .otpInvalidLength 0) else scan isMh .otpInvalidFormat 0 s

/-- `validate_otp(otp)`: the integer of the first 12 characters (R301). -/
def validateOtp (s : List Byte) : Except CmdError (BitVec 64) := do
  checkOtp s
  return BitVec.ofNat 64 (modhexValue (s.take 12))

/-- `extract_public_id(otp)`: the first 12 characters (R302). -/
def extractPid (s : List Byte) : Except CmdError (List Byte) := do
  checkOtp s
  return s.take 12

/-- OTP_VALIDATE (R301). -/
def execOtpValidate (s : State) : Out := .next (runString validateOtp setResInt s)

/-- OTP_EXTRACT_PID (R302); RES_INT is not written. -/
def execOtpExtractPid (s : State) : Out := .next (runString extractPid writeOut s)

end Sys2Proof.Machine
end

