-- ==== Sys2Proof/Machine/Aes.lean ====
section
/-! DEFINITION. The AES-128 single-block encryptor (42_aes128.md) and AES_ENC. A block, a round key and the cipher's state are 16 bytes in input order: `s[r, c]` is byte `r + 4c` (R201). -/

namespace Sys2Proof.Machine

/-- Multiplication by x in GF(2^8) (R202). -/
def xtime (a : Byte) : Byte := (a <<< 1) ^^^ (if a.getLsbD 7 then 0x1B else 0x00)

/-- The S-box, rows by the high nibble (R203). -/
def sboxTable : List Byte :=
  [0x63, 0x7C, 0x77, 0x7B, 0xF2, 0x6B, 0x6F, 0xC5, 0x30, 0x01, 0x67, 0x2B, 0xFE, 0xD7, 0xAB, 0x76] ++
  [0xCA, 0x82, 0xC9, 0x7D, 0xFA, 0x59, 0x47, 0xF0, 0xAD, 0xD4, 0xA2, 0xAF, 0x9C, 0xA4, 0x72, 0xC0] ++
  [0xB7, 0xFD, 0x93, 0x26, 0x36, 0x3F, 0xF7, 0xCC, 0x34, 0xA5, 0xE5, 0xF1, 0x71, 0xD8, 0x31, 0x15] ++
  [0x04, 0xC7, 0x23, 0xC3, 0x18, 0x96, 0x05, 0x9A, 0x07, 0x12, 0x80, 0xE2, 0xEB, 0x27, 0xB2, 0x75] ++
  [0x09, 0x83, 0x2C, 0x1A, 0x1B, 0x6E, 0x5A, 0xA0, 0x52, 0x3B, 0xD6, 0xB3, 0x29, 0xE3, 0x2F, 0x84] ++
  [0x53, 0xD1, 0x00, 0xED, 0x20, 0xFC, 0xB1, 0x5B, 0x6A, 0xCB, 0xBE, 0x39, 0x4A, 0x4C, 0x58, 0xCF] ++
  [0xD0, 0xEF, 0xAA, 0xFB, 0x43, 0x4D, 0x33, 0x85, 0x45, 0xF9, 0x02, 0x7F, 0x50, 0x3C, 0x9F, 0xA8] ++
  [0x51, 0xA3, 0x40, 0x8F, 0x92, 0x9D, 0x38, 0xF5, 0xBC, 0xB6, 0xDA, 0x21, 0x10, 0xFF, 0xF3, 0xD2] ++
  [0xCD, 0x0C, 0x13, 0xEC, 0x5F, 0x97, 0x44, 0x17, 0xC4, 0xA7, 0x7E, 0x3D, 0x64, 0x5D, 0x19, 0x73] ++
  [0x60, 0x81, 0x4F, 0xDC, 0x22, 0x2A, 0x90, 0x88, 0x46, 0xEE, 0xB8, 0x14, 0xDE, 0x5E, 0x0B, 0xDB] ++
  [0xE0, 0x32, 0x3A, 0x0A, 0x49, 0x06, 0x24, 0x5C, 0xC2, 0xD3, 0xAC, 0x62, 0x91, 0x95, 0xE4, 0x79] ++
  [0xE7, 0xC8, 0x37, 0x6D, 0x8D, 0xD5, 0x4E, 0xA9, 0x6C, 0x56, 0xF4, 0xEA, 0x65, 0x7A, 0xAE, 0x08] ++
  [0xBA, 0x78, 0x25, 0x2E, 0x1C, 0xA6, 0xB4, 0xC6, 0xE8, 0xDD, 0x74, 0x1F, 0x4B, 0xBD, 0x8B, 0x8A] ++
  [0x70, 0x3E, 0xB5, 0x66, 0x48, 0x03, 0xF6, 0x0E, 0x61, 0x35, 0x57, 0xB9, 0x86, 0xC1, 0x1D, 0x9E] ++
  [0xE1, 0xF8, 0x98, 0x11, 0x69, 0xD9, 0x8E, 0x94, 0x9B, 0x1E, 0x87, 0xE9, 0xCE, 0x55, 0x28, 0xDF] ++
  [0x8C, 0xA1, 0x89, 0x0D, 0xBF, 0xE6, 0x42, 0x68, 0x41, 0x99, 0x2D, 0x0F, 0xB0, 0x54, 0xBB, 0x16]

/-- SBOX(a) (R203). -/
def sbox (a : Byte) : Byte := sboxTable.getD a.toNat 0

/-- `s[r, c]` (R201). -/
def cell (s : List Byte) (r c : Nat) : Byte := s.getD (r + 4 * c) 0

/-- The 16 bytes whose `s[r, c]` is `f r c` (R201). -/
def grid (f : Nat → Nat → Byte) : List Byte :=
  [f 0 0, f 1 0, f 2 0, f 3 0, f 0 1, f 1 1, f 2 1, f 3 1, f 0 2, f 1 2, f 2 2, f 3 2, f 0 3, f 1 3, f 2 3, f 3 3]

/-- SubBytes (R204). -/
def subBytes (s : List Byte) : List Byte := s.map sbox

/-- ShiftRows (R205). -/
def shiftRows (s : List Byte) : List Byte := grid fun r c => cell s r ((c + r) % 4)

/-- 0x03 times a byte (R206). -/
def times3 (a : Byte) : Byte := xtime a ^^^ a

/-- Row `r` of a mixed column (R206). -/
def mixRow (r : Nat) (a0 a1 a2 a3 : Byte) : Byte :=
  match r with
  | 0 => xtime a0 ^^^ times3 a1 ^^^ a2 ^^^ a3
  | 1 => a0 ^^^ xtime a1 ^^^ times3 a2 ^^^ a3
  | 2 => a0 ^^^ a1 ^^^ xtime a2 ^^^ times3 a3
  | _ => times3 a0 ^^^ a1 ^^^ a2 ^^^ xtime a3

/-- MixColumns (R206). -/
def mixColumns (s : List Byte) : List Byte :=
  grid fun r c => mixRow r (cell s 0 c) (cell s 1 c) (cell s 2 c) (cell s 3 c)

/-- Bytewise XOR. -/
def xorBytes (a b : List Byte) : List Byte := List.zipWith (· ^^^ ·) a b

/-- The round constants RCON[1..10], first byte only (R209). -/
def rconTable : List Byte := [0x01, 0x02, 0x04, 0x08, 0x10, 0x20, 0x40, 0x80, 0x1B, 0x36]

/-- RotWord, SubWord and the round constant on a key word (R208). -/
def keyMix (rcon : Byte) (t : List Byte) : List Byte :=
  match t with
  | [t0, t1, t2, t3] => [sbox t1 ^^^ rcon, sbox t2, sbox t3, sbox t0]
  | _ => []

/-- The next round key from the one before: words `w[4k] … w[4k+3]` from `w[4k-4] … w[4k-1]` (R208). -/
def nextRoundKey (rcon : Byte) (k : List Byte) : List Byte :=
  let w0 := xorBytes (k.take 4) (keyMix rcon (k.drop 12))
  let w1 := xorBytes ((k.drop 4).take 4) w0
  let w2 := xorBytes ((k.drop 8).take 4) w1
  let w3 := xorBytes (k.drop 12) w2
  w0 ++ w1 ++ w2 ++ w3

/-- The round keys that follow a round key, one for each round constant (R207, R208). -/
def roundKeysFrom (k : List Byte) (rcons : List Byte) : List (List Byte) :=
  match rcons with
  | [] => []
  | r :: rcons => nextRoundKey r k :: roundKeysFrom (nextRoundKey r k) rcons

/-- Round keys 1 to 10 of a key; round key 0 is the key (R207, R208). -/
def roundKeys (key : List Byte) : List (List Byte) := roundKeysFrom key rconTable

/-- The rounds after AddRoundKey(0): one for each round key, the last without MixColumns (R210). -/
def cipherRounds (s : List Byte) (keys : List (List Byte)) : List Byte :=
  match keys with
  | [] => s
  | [k] => xorBytes (shiftRows (subBytes s)) k
  | k :: keys => cipherRounds (xorBytes (mixColumns (shiftRows (subBytes s))) k) keys

/-- `AES128(key, block)` (R200, R210). -/
def aes128 (key block : List Byte) : List Byte :=
  cipherRounds (xorBytes block key) (roundKeys key)

/-- AES_ENC's check of its length: ArgumentRange detail 4 unless IN_LEN = 16 (R212). -/
def checkBlockLen (s : State) : Except CmdError Unit :=
  if inLength s ≠ 16 then .error (err0 .argumentRange 4) else .ok ()

/-- The effect of AES_ENC (R212): NoToken, then the length, then the block under the token's key. -/
def aesEnc (s : State) : State :=
  match checkToken s with
  | .error x => raise x s
  | .ok () =>
    match checkBlockLen s with
    | .error x => raise x s
    | .ok () => complete (writeOut (aes128 (fieldBytes s.tok.secretKey) (inBytes s 16)) (tick s))

/-- AES_ENC (R212). -/
def execAesEnc (s : State) : Out := .next (aesEnc s)

end Sys2Proof.Machine
end

