-- ==== Sys2Proof/Machine/Crc.lean ====
section
/-! DEFINITION. The CRC-16 generator (41_crc16.md) and its two commands. -/

namespace Sys2Proof.Machine

/-- One round: shift left, and XOR with the polynomial if the top bit was set (R180). -/
def crcRound (c : BitVec 16) : BitVec 16 :=
  if c.getLsbD 15 then (c <<< 1) ^^^ 0x1021 else c <<< 1

/-- `n` rounds. -/
def crcRounds (n : Nat) (c : BitVec 16) : BitVec 16 :=
  match n with
  | 0 => c
  | n + 1 => crcRounds n (crcRound c)

/-- One input byte: XOR into the top 8 bits, then 8 rounds (R180). -/
def crcByte (c : BitVec 16) (b : Byte) : BitVec 16 :=
  crcRounds 8 (c ^^^ (b.zeroExtend 16 <<< 8))

/-- The register over a byte sequence, from a start value. -/
def crcFrom (c : BitVec 16) (bs : List Byte) : BitVec 16 := bs.foldl crcByte c

/-- `crc16(bs)` (R180). -/
def crc16 (bs : List Byte) : BitVec 16 := crcFrom 0xFFFF bs

/-- CRC16 (R182). -/
def execCrc16 (s : State) : Out :=
  .next (runString (fun S => .ok (crc16 S)) setResCrc s)

/-- CRC16_VERIFY (R183); RES_CRC is not written. -/
def execCrc16Verify (s : State) : Out :=
  .next (runString (fun S => .ok (crc16 S == argCrc s)) setResBool s)

end Sys2Proof.Machine
end

