-- ==== Sys2Proof/Machine/Token.lean ====
section
/-! DEFINITION. The token payload assembler (43_token.md): construction, OTP generation, session advance and the accessors. -/

namespace Sys2Proof.Machine

/-! ### TOK_CREATE (R250 to R258) -/

/-- The bytes of IN that a configuration's fields take, lp + lq + lk (R250, R251). -/
def Cfg.total (c : Cfg) : Nat :=
  presentLen c.pubP c.pubLen + presentLen c.privP c.privLen + presentLen c.keyP c.keyLen

/-- The supplied fields, packed in IN in the source's order (R251). -/
structure Supplied where
  pub : List Byte
  priv : List Byte
  key : List Byte
  deriving DecidableEq, Repr

/-- P, Q and K of the packed bytes (R250, R251). -/
def splitSupplied (c : Cfg) (bs : List Byte) : Supplied :=
  let lp := presentLen c.pubP c.pubLen
  let lq := presentLen c.privP c.privLen
  { pub := bs.take lp, priv := (bs.drop lp).take lq, key := bs.drop (lp + lq) }

/-- A supplied public_id is 12 characters of the alphabet (R252). -/
def checkPublicId (p : List Byte) : Except CmdError Unit :=
  if p.length ≠ 12 then .error (err0 .invalidPublicId 1) else scan isMh .invalidPublicId 2 p

/-- A supplied private_id is 6 bytes (R253). -/
def checkPrivateId (q : List Byte) : Except CmdError Unit :=
  if q.length ≠ 6 then .error (err0 .invalidPrivateId 1) else .ok ()

/-- A supplied secret_key is 16 bytes (R253). -/
def checkSecretKey (k : List Byte) : Except CmdError Unit :=
  if k.length ≠ 16 then .error (err0 .invalidSecretKey 1) else .ok ()

/-- A check that is made only of a field that is present. -/
def whenPresent (p : Bool) (check : Except CmdError Unit) : Except CmdError Unit :=
  if p then check else .ok ()

/-- Phase 1 on the supplied fields: public_id, then private_id, then secret_key (R250, R253). -/
def checkSupplied (c : Cfg) (f : Supplied) : Except CmdError Unit := do
  whenPresent c.pubP (checkPublicId f.pub)
  whenPresent c.privP (checkPrivateId f.priv)
  whenPresent c.keyP (checkSecretKey f.key)

/-- The check of R251: ArgumentRange detail 3 if the fields exceed `IN_SIZE`. -/
def checkTotal (c : Cfg) : Except CmdError Unit :=
  if Config.inSize < c.total then .error (err0 .argumentRange 3) else .ok ()

/-- A field: the supplied bytes, or the answer of one entropy request of `n` bytes (R254). -/
def fieldOrDraw (p : Bool) (supplied : List Byte) (n : Nat) (s : State) : Option (List Byte) :=
  if p then some supplied else nextEntropy n s

/-- The state after a field: a request has been made only if the field is not supplied (R254). -/
def afterField (p : Bool) (s : State) : State := if p then s else popEntropy s

/-- The public_id: the supplied characters, or MHbytes of 6 drawn bytes (R254). -/
def publicIdOrDraw (p : Bool) (supplied : List Byte) (s : State) : Option (List Byte) :=
  if p then some supplied else (nextEntropy 6 s).map mhBytes

/-- seed = byte0 | byte1 << 8 (R255). -/
def seedOf (b : List Byte) : BitVec 16 := b.getD 1 0 ++ b.getD 0 0

/-- The token a TOK_CREATE commits (R250, R256). -/
def newToken (pub priv key : List Byte) (seed : BitVec 16) (ts : BitVec 24) : Token :=
  { valid := true
    publicId := packBytes 12 pub
    privateId := packBytes 6 priv
    secretKey := packBytes 16 key
    counter := 1
    sessionUse := 0
    timestamp := ts
    randomSeed := seed }

/-- Phase 2 and phase 3: the draws in the order public_id, private_id, secret_key, seed, time, then the commit; a failing draw commits nothing (R250, R254 to R257). -/
def drawAndCommit (c : Cfg) (f : Supplied) (s : State) : State :=
  let s1 := afterField c.pubP s
  let s2 := afterField c.privP s1
  let s3 := afterField c.keyP s2
  let s4 := popEntropy s3
  match publicIdOrDraw c.pubP f.pub s with
  | none => raise (err0 .randomSourceFailure 0) s1
  | some pub =>
    match fieldOrDraw c.privP f.priv 6 s1 with
    | none => raise (err0 .randomSourceFailure 0) s2
    | some priv =>
      match fieldOrDraw c.keyP f.key 16 s2 with
      | none => raise (err0 .randomSourceFailure 0) s3
      | some key =>
        match nextEntropy 2 s3 with
        | none => raise (err0 .randomSourceFailure 0) s4
        | some sb => complete { popTime s4 with tok := newToken pub priv key (seedOf sb) (nextStamp s4) }

/-- The effect of TOK_CREATE (R250): the layout check, one read of the packed bytes, the field checks, the draws and the commit. -/
def tokCreate (s : State) : State :=
  match checkTotal s.cfg with
  | .error x => raise x s
  | .ok () =>
    let f := splitSupplied s.cfg (inBytes s s.cfg.total)
    match checkSupplied s.cfg f with
    | .error x => raise x (tick s)
    | .ok () => drawAndCommit s.cfg f (tick s)

/-- TOK_CREATE (R250). -/
def execTokCreate (s : State) : Out := .next (tokCreate s)

/-! ### TOK_GENERATE (R260 to R268) -/

/-- Bytes 0 to 13 of the OTP record (R262). -/
def recordBody (priv : List Byte) (ctr : BitVec 16) (ts : BitVec 24) (su : BitVec 8) (rnd : List Byte) : List Byte :=
  priv ++ [ctr.extractLsb' 0 8, ctr.extractLsb' 8 8, ts.extractLsb' 0 8, ts.extractLsb' 8 8, ts.extractLsb' 16 8, su] ++ rnd

/-- The CRC as the record stores it, little-endian (R262, R263). -/
def crcField (c : BitVec 16) : List Byte := [c.extractLsb' 0 8, c.extractLsb' 8 8]

/-- The 16-byte OTP record: bytes 0 to 13 and their CRC (R262, R263). -/
def record (priv : List Byte) (ctr : BitVec 16) (ts : BitVec 24) (su : BitVec 8) (rnd : List Byte) : List Byte :=
  recordBody priv ctr ts su rnd ++ crcField (crc16 (recordBody priv ctr ts su rnd))

/-- The body of the record that a token gives with a draw (R260, R262). -/
def Token.body (t : Token) (rnd : List Byte) : List Byte :=
  recordBody (fieldBytes t.privateId) t.counter t.timestamp t.sessionUse rnd

/-- The OTP string of a token with a draw: `public_id ++ MHbytes(AES128(secret_key, record))` (R264, R265). -/
def Token.otp (t : Token) (rnd : List Byte) : List Byte :=
  fieldBytes t.publicId ++
    mhBytes (aes128 (fieldBytes t.secretKey) (record (fieldBytes t.privateId) t.counter t.timestamp t.sessionUse rnd))

/-- The mutation before the draw: session_use incremented and timestamp refreshed (R261). -/
def refresh (s : State) : State :=
  { popTime s with tok := { s.tok with sessionUse := nextSession s.tok.sessionUse, timestamp := nextStamp s } }

/-- The audit values of a TOK_GENERATE (R266). -/
def setAudit (rnd : List Byte) (s : State) : State :=
  { s with
    resCounter := s.tok.counter
    resSession := s.tok.sessionUse
    resTimestamp := s.tok.timestamp
    resCrc := crc16 (s.tok.body rnd) }

/-- The effect of TOK_GENERATE (R260); after a failing draw the mutation of R261 stays (R267). -/
def tokGenerate (s : State) : State :=
  match checkToken s with
  | .error x => raise x s
  | .ok () =>
    let s := refresh s
    match nextEntropy 2 s with
    | none => raise (err0 .randomSourceFailure 0) (popEntropy s)
    | some rnd => complete (setAudit rnd (writeOut (s.tok.otp rnd) (popEntropy s)))

/-- TOK_GENERATE (R260). -/
def execTokGenerate (s : State) : Out := .next (tokGenerate s)

/-! ### TOK_ADVANCE and the accessors (R270 to R274) -/

/-- The power cycle of a token: counter incremented, session_use 0 (R270). -/
def advanceToken (_ : Unit) (s : State) : State :=
  { s with tok := { s.tok with counter := nextCounter s.tok.counter, sessionUse := 0 } }

/-- TOK_ADVANCE (R270). -/
def execTokAdvance (s : State) : Out := .next (finish (checkToken s) advanceToken s)

/-- An accessor: `check R274`, then a token field is copied to OUT (R271 to R273). -/
def exportField (field : List Byte) (s : State) : State :=
  finish (checkToken s) (fun _ s => writeOut field s) s

/-- TOK_PUBID (R271). -/
def execTokPubid (s : State) : Out := .next (exportField (fieldBytes s.tok.publicId) s)

/-- TOK_EXPORT_KEY (R272). -/
def execTokExportKey (s : State) : Out := .next (exportField (fieldBytes s.tok.secretKey) s)

/-- TOK_EXPORT_PRIVID (R273). -/
def execTokExportPrivid (s : State) : Out := .next (exportField (fieldBytes s.tok.privateId) s)

end Sys2Proof.Machine
end

