-- ==== Sys2Proof/Machine/Dispatch.lean ====
section
/-! DEFINITION. One arm for each command: its meaning. -/

namespace Sys2Proof.Machine

def exec (i : Instr) (s : State) : Host.Outcome State Fault Refusal :=
  match i with
  | .mhIsValid => Sys2Proof.Machine.execMhIsValid s
  | .mhValidate => Sys2Proof.Machine.execMhValidate s
  | .mhValidateLen => Sys2Proof.Machine.execMhValidateLen s
  | .mhDecodeHex => Sys2Proof.Machine.execMhDecodeHex s
  | .mhDecodeInt => Sys2Proof.Machine.execMhDecodeInt s
  | .mhEncodeHex => Sys2Proof.Machine.execMhEncodeHex s
  | .mhEncodeBytes => Sys2Proof.Machine.execMhEncodeBytes s
  | .mhDecodeBytes => Sys2Proof.Machine.execMhDecodeBytes s
  | .mhRandom => Sys2Proof.Machine.execMhRandom s
  | .crc16 => Sys2Proof.Machine.execCrc16 s
  | .crc16Verify => Sys2Proof.Machine.execCrc16Verify s
  | .aesEnc => Sys2Proof.Machine.execAesEnc s
  | .tokCreate => Sys2Proof.Machine.execTokCreate s
  | .tokGenerate => Sys2Proof.Machine.execTokGenerate s
  | .tokAdvance => Sys2Proof.Machine.execTokAdvance s
  | .tokPubid => Sys2Proof.Machine.execTokPubid s
  | .tokExportKey => Sys2Proof.Machine.execTokExportKey s
  | .tokExportPrivid => Sys2Proof.Machine.execTokExportPrivid s
  | .otpValidate => Sys2Proof.Machine.execOtpValidate s
  | .otpExtractPid => Sys2Proof.Machine.execOtpExtractPid s

end Sys2Proof.Machine
end

