-- ==== Sys2Proof/Machine/Bus.lean ====
section
/-! DEFINITION. The host's bus accesses to the register window (20_memory.md). -/

namespace Sys2Proof.Machine

/-- The window offset of a bus address, none outside the window (R23, R88). -/
def windowOffset (addr : Nat) : Option Nat :=
  if Config.baseAddr ≤ addr ∧ addr < Config.baseAddr + Config.windowSize then some (addr - Config.baseAddr) else none

/-- The bus address of a window offset (R23, R88). -/
def busAddress (a : Nat) : Nat := Config.baseAddr + a

/-- The low n bytes of a value (R70). -/
def truncateTo (w : Width) (v : Word) : Word :=
  match w with
  | .byte => v &&& 0xFF
  | .half => v &&& 0xFFFF
  | .word => v

/-- The value of up to four bytes, the first in bits [7:0] (R73). -/
def valueOfBytes (bs : List Byte) : Word :=
  wordOfBytes (bs.getD 0 0) (bs.getD 1 0) (bs.getD 2 0) (bs.getD 3 0)

/-- A register as it is read (R23 to R32): CMD, reserved bits and reserved offsets read 0 (R24, R88). -/
def registerValue (s : State) (a : Nat) : Word :=
  match a with
  | 0x004 => statusWord s
  | 0x008 => s.inLen.zeroExtend 32
  | 0x00C => s.arg
  | 0x010 => s.cfg.toWord
  | 0x014 => s.outLen.zeroExtend 32
  | 0x018 => s.errInfo
  | 0x01C => (bit s.resBool).zeroExtend 32
  | 0x020 => s.resCrc.zeroExtend 32
  | 0x024 => s.resIntLo
  | 0x028 => s.resIntHi
  | 0x02C => s.resCounter.zeroExtend 32
  | 0x030 => s.resSession.zeroExtend 32
  | 0x034 => s.resTimestamp.zeroExtend 32
  | 0x038 => s.tok.counter.zeroExtend 32
  | 0x03C => s.tok.sessionUse.zeroExtend 32
  | 0x040 => s.tok.timestamp.zeroExtend 32
  | 0x044 => s.tok.randomSeed.zeroExtend 32
  | _ => 0

/-- The locations that read as a draw while BUSY = 1: OUT_LEN, ERR_INFO, RES_*, TOK_* and OUT (R79). -/
def isResult (a : Nat) : Bool := (0x014 ≤ a && a ≤ 0x044) || Config.outBase ≤ a

/-- `MemRead(a, n)` at a window offset (R71, R72, R75, R79); it is read number `s.draws`. -/
def busRead (w : Width) (a : Nat) (s : State) : Reply :=
  if !accessWf w a then .busError
  else if s.busy && isResult a then .data (truncateTo w (Config.busyRead s.draws))
  else if a < Config.inBase then .data (registerValue s a)
  else .data (valueOfBytes (bufferBytes s a w.bytes))

/-- A register write while BUSY = 0 (R24, R76, R77); read-only registers and reserved offsets ignore it. -/
def writeRegister (a : Nat) (v : Word) (s : State) : State :=
  match a with
  | 0x000 => acceptCommand v s
  | 0x004 => if v.getLsbD 4 then { s with ovr := false } else s
  | 0x008 => { s with inLen := v.extractLsb' 0 9 }
  | 0x00C => { s with arg := v }
  | 0x010 => { s with cfg := Cfg.ofWord v }
  | _ => s

/-- A write while BUSY = 0: a register, IN, or OUT, which the host cannot write (R76). -/
def writeIdle (w : Width) (a : Nat) (v : Word) (s : State) : State :=
  if a < Config.inBase then writeRegister a v s
  else if a < Config.outBase then { s with mem := Memory.writeBytes s.mem a ((bytesOfWord v).take w.bytes) }
  else s

/-- `MemWrite(a, n, v)` at a window offset: a bus error changes nothing (R71, R72), a write while BUSY = 1 is dropped and sets OVR (R78). -/
def busWrite (w : Width) (a : Nat) (v : Word) (s : State) : Reply × State :=
  if !accessWf w a then (.busError, s)
  else if s.busy then (.ok, { s with ovr := true })
  else (.ok, writeIdle w a v s)

end Sys2Proof.Machine
end

