-- ==== Sys2Proof/Machine/HostAgent.lean ====
section
/-! DEFINITION. The host agent (R17, R106, R108): the statements of its program, one a step, and the platform's reset input (R360). -/

namespace Sys2Proof.Machine

/-- The host has executed its last statement (R370). -/
def Agent.finished (g : Agent) : Bool := decide (g.prog.length ≤ g.pos)

/-- The next statement follows. -/
def Agent.advance (g : Agent) : Agent := { g with pos := g.pos + 1 }

/-- The reply of an access is kept. -/
def Agent.answer (r : Reply) (g : Agent) : Agent := { g with replies := g.replies ++ [r] }

/-- What `bne_busy` will see of a read: BUSY of an `ld32 STATUS`, and no other read (R106). -/
def seenBusy (w : Width) (a : Nat) (r : Reply) (old : Option Bool) : Option Bool :=
  match w, a, r with
  | .word, 0x004, .data v => some (v.getLsbD 0)
  | _, _, _ => old

/-- The reset input puts every piece of the block's state into its reset value (R360 to R362); the host agent, the environment and the numbering of the draws are not the block's. -/
def assertReset (s : State) : State := { State.reset with agent := s.agent, ports := s.ports, draws := s.draws }

/-- How many statements stand before the `end` that closes a loop, with `depth` inner loops open. -/
def stmtsToEnd (depth : Nat) (p : List HostStmt) : Option Nat :=
  match p with
  | [] => none
  | .endRep :: p =>
    match depth with
    | 0 => some 0
    | d + 1 => (stmtsToEnd d p).map (· + 1)
  | .rep _ :: p => (stmtsToEnd (depth + 1) p).map (· + 1)
  | _ :: p => (stmtsToEnd depth p).map (· + 1)

/-- `rep N`: enters its lines with N - 1 more rounds to come, or goes past its `end` if N = 0 (R106). A `rep` without its `end`, whatever N, has no meaning in R106 and faults: DESIGN CHOICE, log entry 14. -/
def hostRep (n : Nat) (s : State) : Out :=
  match stmtsToEnd 0 (s.agent.prog.drop (s.agent.pos + 1)), n with
  | none, _ => .fault .unmatchedLoop
  | some k, 0 => .next { s with agent := { s.agent with pos := s.agent.pos + 1 + k + 1 } }
  | some _, n + 1 => .next { s with agent := { s.agent.advance with loops := (s.agent.pos + 1, n) :: s.agent.loops } }

/-- `end`: the next round of the innermost loop, or the statement after it (R106). An `end` that a `bne_busy` from outside its loop has led to closes whatever loop is open, or faults if none is: DESIGN CHOICE, log entry 14. -/
def hostEnd (s : State) : Out :=
  match s.agent.loops with
  | [] => .fault .unmatchedLoop
  | (_, 0) :: ls => .next { s with agent := { s.agent.advance with loops := ls } }
  | (p, n + 1) :: ls => .next { s with agent := { s.agent with pos := p, loops := (p, n) :: ls } }

/-- `bne_busy label` (R106). It leaves the open loops as they are, also where it enters or leaves a loop, and its label is looked for only when the branch is taken, so with BUSY = 0 it goes on whether the program holds the label or not: DESIGN CHOICE, log entry 14. -/
def hostBranch (l : Nat) (s : State) : Out :=
  match s.agent.lastBusy with
  | none => .fault .branchBeforeStatus
  | some false => .next { s with agent := s.agent.advance }
  | some true =>
    if s.agent.prog.contains (.label l) then
      .next { s with agent := { s.agent with pos := s.agent.prog.idxOf (.label l) } }
    else .fault .noSuchLabel

/-- A store of the host's program at an offset of the window. -/
def hostStore (w : Width) (a : Nat) (v : Word) (s : State) : Out :=
  if a < Config.windowSize then
    match busWrite w a v s with
    | (r, s) => .next { s with agent := s.agent.advance.answer r }
  else .fault .outsideWindow

/-- A load of the host's program at an offset of the window. -/
def hostLoad (w : Width) (a : Nat) (s : State) : Out :=
  if a < Config.windowSize then
    let r := busRead w a s
    .next { tick s with agent := { s.agent.advance.answer r with lastBusy := seenBusy w a r s.agent.lastBusy } }
  else .fault .outsideWindow

/-- One statement of the host's program (R106). -/
def hostStmt (st : HostStmt) (s : State) : Out :=
  match st with
  | .st w a v => hostStore w a v s
  | .ld w a => hostLoad w a s
  | .rep n => hostRep n s
  | .endRep => hostEnd s
  | .label _ => .next { s with agent := s.agent.advance }
  | .bneBusy l => hostBranch l s
  | .assertReset => .next { assertReset s with agent := s.agent.advance }

/-- The host's step: its next statement, and one fewer before the block's step; a host without a statement leaves the machine as it is (R335). -/
def hostStep (s : State) : Out :=
  match s.agent.prog[s.agent.pos]? with
  | none => .next s
  | some st => hostStmt st { s with delay := s.delay - 1 }

/-! ### Pseudo-instructions (R108) -/

/-- The window offset of CMD (R23). -/
def cmdOffset : Nat := 0x000

/-- The window offset of STATUS (R23). -/
def statusOffset : Nat := 0x004

/-- The window offset of IN_LEN (R23). -/
def inLenOffset : Nat := 0x008

/-- The window offset of ARG (R23). -/
def argOffset : Nat := 0x00C

/-- `cmd M` (R108). -/
def pseudoCmd (i : Instr) : List HostStmt := [.st .word cmdOffset (encodeWord i)]

/-- `wait`, with a label that the program uses nowhere else (R108). -/
def pseudoWait (l : Nat) : List HostStmt := [.label l, .ld .word statusOffset, .bneBusy l]

/-- `run M` (R108). -/
def pseudoRun (i : Instr) (l : Nat) : List HostStmt := pseudoCmd i ++ pseudoWait l

/-- The byte stores of `ldin` and `ldinb` from `IN+k` on (R108). -/
def storeIn (k : Nat) (bs : List Byte) : List HostStmt :=
  match bs with
  | [] => []
  | b :: bs => .st .byte (Config.inBase + k) (b.zeroExtend 32) :: storeIn (k + 1) bs

/-- `ldinb b0, b1, …`, and `ldin "s"` of the string's bytes (R108). -/
def pseudoLdin (bs : List Byte) : List HostStmt :=
  storeIn 0 bs ++ [.st .word inLenOffset (BitVec.ofNat 32 bs.length)]

/-- `mh_newpid` (R108). -/
def pseudoNewpid (l : Nat) : List HostStmt := .st .word argOffset 12 :: pseudoRun .mhRandom l

end Sys2Proof.Machine
end

