-- ==== Sys2Proof/Machine/Block.lean ====
section
/-! DEFINITION. The block's step (R324) and the choice of the agent that moves next (R17, R82, R369). -/

namespace Sys2Proof.Machine

/-- IllegalCommand, detail 0, info 0 (R104). -/
def illegalCommand : CmdError := err0 .illegalCommand 0

/-- The block's step on the latched word: the command it decodes to, or the completion with IllegalCommand (R104, R324). -/
def blockStep (w : Word) (s : State) : Out :=
  match decodeWord w with
  | .ok i => exec i s
  | .error _ => .next (raise illegalCommand s)

/-- Whether the pending command's step comes next: the host steps before it are over, or the host has no statement left (R324, R369). -/
def blockNext (s : State) : Bool := s.delay == 0 || s.agent.finished

/-- One step of the machine: the block's if a command is pending and its time has come, else the host's. -/
def machineStep (s : State) : Out :=
  match s.pend with
  | none => hostStep s
  | some w => if blockNext s then blockStep w s else hostStep s

/-- A command word latched as R77 does, with the block's step next. -/
def latchNext (w : Word) (s : State) : State := { latchCommand w s with delay := 0 }

/-- A run is over: the host has executed its last statement and the block is idle (R370); loops that a branch has left open do not matter (log entry 14). -/
def runEnded (s : State) : Bool := s.agent.finished && !s.busy

end Sys2Proof.Machine
end

