-- ==== Sys2Proof/Machine/Step.lean ====
section
/-! DEFINITION. The step of the machine, and the placing of a command word where the next step runs it. -/

namespace Sys2Proof.Machine

/-- One step of the machine (R17, R324). -/
def step : State → Host.Outcome State Fault Refusal := machineStep

/-- The state in which the command word of an opcode-table row is latched as an accepted CMD write latches it (R77), its step being the next. -/
def State.withFetchWord (s : State) (nbits w : Nat) : State := latchNext (tableWord nbits w) s

end Sys2Proof.Machine
end

