-- ==== Sys2Proof/Safety.lean ====
section
/-! DEFINITION. What counts as a safe state and a safe run, in the terms the statements use: the invariant of the block, and stopping. -/

namespace Sys2Proof.Machine

/-- While a token exists its public_id is 12 characters of the alphabet (R34). -/
def tokenWf (t : Token) : Bool := !t.valid || (fieldBytes t.publicId).all isMh

/-- While no token exists every token field is zero (R42, R362). -/
def tokenCleared (t : Token) : Bool := t.valid || t == Token.zero

/-- The details that R321 gives an error code; 0 for every code it does not list. -/
def detailsOf (c : ErrCode) : List Byte :=
  match c with
  | .invalidModhexLength => [1, 2, 3, 4, 5]
  | .invalidHexInput => [1, 2]
  | .invalidPublicId => [1, 2]
  | .invalidPrivateId => [1]
  | .invalidSecretKey => [1]
  | .argumentRange => [1, 2, 3, 4]
  | _ => [0]

/-- Whether an error carries an index in ERR_INFO (R323). -/
def carriesInfo (c : ErrCode) (d : Byte) : Bool :=
  match c with
  | .invalidModhexChar => true
  | .invalidHexInput => d == 2
  | .invalidPublicId => d == 2
  | .otpInvalidFormat => true
  | _ => false

/-- What STATUS and ERR_INFO say of an error fits R320, R321 and R323; CipherInitFailure is never said (R213). -/
def errorWf (c : ErrCode) (d : Byte) (info : Word) : Bool :=
  (detailsOf c).contains d && (carriesInfo c d || info == 0) && c != .cipherInitFailure && decide (info.toNat < Config.inSize)

/-- STATUS and ERR_INFO say nothing of a command: before the first one and while one is pending (R25, R77). -/
def statusClear (s : State) : Bool :=
  !s.err && s.errCode == .success && s.errDetail == 0 && s.errInfo == 0

/-- The first OUT_LEN bytes of OUT are written, and OUT_LEN is at most `OUT_SIZE` (R29, R36, R37). -/
def outWf (s : State) : Prop :=
  s.outLen.toNat ≤ Config.outSize ∧ ∀ i < s.outLen.toNat, (Memory.read s.mem (Config.outBase + i)).isSome = true

/-- The invariant of the block: it holds after reset and every step keeps it. -/
structure Inv (s : State) : Prop where
  /-- The buffers' list has its canonical form. -/
  memory : Memory.wf s.mem = true
  /-- R34. -/
  publicId : tokenWf s.tok = true
  /-- R42, R362. -/
  cleared : tokenCleared s.tok = true
  /-- ERR is 1 exactly when ERR_CODE is not 0x00 (R25, R325, R326). -/
  errFlag : s.err = (s.errCode != .success)
  /-- R320, R321, R323. -/
  error : errorWf s.errCode s.errDetail s.errInfo = true
  /-- BUSY and DONE are never both 1 (R25, R77). -/
  busyDone : (s.busy && s.done) = false
  /-- Without a completed command nothing is said of one (R25, R77). -/
  clear : s.done = false → statusClear s = true
  /-- R29, R36, R37. -/
  out : outWf s

/-- A step that does not stop. -/
def Runs (s : State) : Prop := ∃ t, step s = .next t

end Sys2Proof.Machine
end

