-- ==== Sys2Proof/Certificates/Slice0/Obligations.lean ====
section
/-! DEFINITION. The statements for the provers, and the words they are stated in. The words are written from the spec's rules, not from the model's definitions, wherever the spec gives the value itself. -/

namespace Sys2Proof.Claims

open Sys2Proof.Machine

/-! ### Words of the statements -/

/-- Successful completion (R325) of a command that wrote nothing else. -/
def succeeded (s : State) : State :=
  { s with pend := none, done := true, err := false, errCode := .success, errDetail := 0, errInfo := 0 }

/-- Error completion (R326) with a code, a detail and an info. -/
def failed (c : ErrCode) (d : Byte) (i : Word) (s : State) : State :=
  { s with pend := none, done := true, err := true, errCode := c, errDetail := d, errInfo := i }

/-- The model's request counter after one read of the buffers. -/
def readOnce (s : State) : State := { s with draws := s.draws + 1 }

/-- It is the block's turn: a command is pending, and no host step comes before its step (R324, R369). -/
def BlockTurn (s : State) (w : Word) : Prop :=
  s.pend = some w ∧ (s.delay = 0 ∨ s.agent.prog.length ≤ s.agent.pos)

/-- It is the host's turn. -/
def HostTurn (s : State) : Prop :=
  s.pend = none ∨ (s.delay ≠ 0 ∧ s.agent.pos < s.agent.prog.length)

/-- The platform asserts the reset input in the next step. -/
def ResetNext (s : State) : Prop := s.agent.prog[s.agent.pos]? = some .assertReset

/-- OUT holds `r` from its first byte on, and every other byte of the buffers reads as before (R36). -/
def OutHolds (m m' : Memory) (r : List Byte) : Prop :=
  (∀ i, i < r.length → Memory.read m' (0x200 + i) = some (r.getD i 0)) ∧
    ∀ a, a < 0x200 ∨ 0x200 + r.length ≤ a → Memory.read m' a = Memory.read m a

/-- The command completes with success from `s`, its requests to the environment leaving `s'`: it writes `r` to OUT and its length to OUT_LEN, and nothing else (R36, R325). -/
def AnswersOut (i : Instr) (s s' : State) (r : List Byte) : Prop :=
  ∃ m, exec i s = .next { succeeded s' with outLen := BitVec.ofNat 10 r.length, mem := m } ∧ OutHolds s.mem m r

/-- The input string S = IN[0..IN_LEN) as the command reads it (R134). -/
def input (s : State) : List Byte := inputString s

/-- The command fails with ArgumentRange detail 1 if IN_LEN exceeds 256 (R134). -/
def RangeChecked (i : Instr) : Prop :=
  ∀ s, 256 < s.inLen.toNat → exec i s = .next (failed .argumentRange 1 0 s)

/-- The 16 characters cbdefghijklnrtuv in nibble order (R130). -/
def alphabet : List Byte :=
  [0x63, 0x62, 0x64, 0x65, 0x66, 0x67, 0x68, 0x69, 0x6A, 0x6B, 0x6C, 0x6E, 0x72, 0x74, 0x75, 0x76]

/-- The 16 characters 0123456789abcdef (R132). -/
def hexDigits : List Byte :=
  [0x30, 0x31, 0x32, 0x33, 0x34, 0x35, 0x36, 0x37, 0x38, 0x39, 0x61, 0x62, 0x63, 0x64, 0x65, 0x66]

/-- A to F lowered (R132). -/
def lower (c : Byte) : Byte := if 0x41 ≤ c.toNat ∧ c.toNat ≤ 0x46 then c + 0x20 else c

/-- The nibble of an alphabet character (R131). -/
def nibbleOf (c : Byte) : Nat := alphabet.idxOf c

/-- The character of a nibble (R130). -/
def charOf (n : Nat) : Byte := alphabet.getD n 0

/-- A hexadecimal character (R132). -/
def IsHexChar (c : Byte) : Prop := lower c ∈ hexDigits

/-- A non-empty string of the alphabet (R135). -/
def Modhex (S : List Byte) : Prop := S ≠ [] ∧ ∀ c ∈ S, c ∈ alphabet

/-- `i` is the first index whose character is not good (R327). -/
def FirstOffender (good : Byte → Prop) (S : List Byte) (i : Nat) : Prop :=
  i < S.length ∧ ¬ good (S.getD i 0) ∧ ∀ j, j < i → good (S.getD j 0)

/-- Two characters per byte, high nibble first (R133). -/
def modhexOf (b : List Byte) : List Byte :=
  b.flatMap fun x => [charOf (x.toNat / 16), charOf (x.toNat % 16)]

/-- The sum of the nibbles of S times their powers of 16 (R141). -/
def placeValue (S : List Byte) : Nat :=
  ((List.range S.length).map fun i => nibbleOf (S.getD i 0) * 16 ^ (S.length - 1 - i)).sum

/-- The two errors of V on the input string (R135). -/
def VErrors (i : Instr) (s : State) : Prop :=
  (input s = [] → exec i s = .next (failed .invalidModhexLength 1 0 (readOnce s))) ∧
    ∀ k, FirstOffender (· ∈ alphabet) (input s) k →
      exec i s = .next (failed .invalidModhexChar 0 (BitVec.ofNat 32 k) (readOnce s))

/-- One round of R180 on the register as a number. -/
def crcRoundNat (c : Nat) : Nat := if c / 32768 % 2 = 1 then ((c * 2) ^^^ 0x1021) % 65536 else c * 2 % 65536

/-- One byte of R180 on the register as a number: XOR into the top 8 bits, then 8 rounds. -/
def crcByteNat (c : Nat) (b : Byte) : Nat :=
  (List.replicate 8 ()).foldl (fun c _ => crcRoundNat c) (c ^^^ (b.toNat * 256))

/-- `crc16(bs)` of R180. -/
def crcNat (bs : List Byte) : Nat := bs.foldl crcByteNat 0xFFFF

/-- The OP values of R102. -/
def opValues : List Nat :=
  [0x10, 0x11, 0x12, 0x13, 0x14, 0x15, 0x16, 0x17, 0x18, 0x20, 0x21, 0x30, 0x40, 0x41, 0x42, 0x43, 0x44, 0x45, 0x50, 0x51]

/-- Bytes 0 to 13 of the OTP record by offset (R262). -/
def recordBytes (priv : List Byte) (ctr ts su : Nat) (rnd : List Byte) : List Byte :=
  [priv.getD 0 0, priv.getD 1 0, priv.getD 2 0, priv.getD 3 0, priv.getD 4 0, priv.getD 5 0,
    BitVec.ofNat 8 ctr, BitVec.ofNat 8 (ctr / 256),
    BitVec.ofNat 8 ts, BitVec.ofNat 8 (ts / 256), BitVec.ofNat 8 (ts / 65536),
    BitVec.ofNat 8 su, rnd.getD 0 0, rnd.getD 1 0]

/-- The 16-byte record: its CRC over bytes 0 to 13 little-endian at 14 and 15 (R262, R263). -/
def recordOf (priv : List Byte) (ctr ts su : Nat) (rnd : List Byte) : List Byte :=
  recordBytes priv ctr ts su rnd ++
    [BitVec.ofNat 8 (crcNat (recordBytes priv ctr ts su rnd)), BitVec.ofNat 8 (crcNat (recordBytes priv ctr ts su rnd) / 256)]

/-- lp, lq and lk of a configuration (R250). -/
def fieldLen (p : Bool) (n : Byte) : Nat := if p then n.toNat else 0

/-- lp + lq + lk (R250). -/
def suppliedLen (c : Cfg) : Nat := fieldLen c.pubP c.pubLen + fieldLen c.privP c.privLen + fieldLen c.keyP c.keyLen

/-- P, the supplied public_id, as one read of the packed bytes of IN finds it (R251). -/
def suppliedPub (s : State) : List Byte := (inBytes s (suppliedLen s.cfg)).take (fieldLen s.cfg.pubP s.cfg.pubLen)

/-- Q, the supplied private_id (R251). -/
def suppliedPriv (s : State) : List Byte :=
  ((inBytes s (suppliedLen s.cfg)).drop (fieldLen s.cfg.pubP s.cfg.pubLen)).take (fieldLen s.cfg.privP s.cfg.privLen)

/-- K, the supplied secret_key (R251). -/
def suppliedKey (s : State) : List Byte :=
  (inBytes s (suppliedLen s.cfg)).drop (fieldLen s.cfg.pubP s.cfg.pubLen + fieldLen s.cfg.privP s.cfg.privLen)

/-- The public_id is not supplied, or is 12 characters of the alphabet (R252). -/
def PubFits (s : State) : Prop :=
  s.cfg.pubP = true → s.cfg.pubLen = 12 ∧ ∀ c ∈ suppliedPub s, c ∈ alphabet

/-- The private_id is not supplied, or is 6 bytes (R253). -/
def PrivFits (s : State) : Prop := s.cfg.privP = true → s.cfg.privLen = 6

/-- The secret_key is not supplied, or is 16 bytes (R253). -/
def KeyFits (s : State) : Prop := s.cfg.keyP = true → s.cfg.keyLen = 16

/-- How many requests come before a field's own: one for a field that is not supplied. -/
def oneIfDrawn (p : Bool) : Nat := if p then 0 else 1

/-- The sizes of the entropy requests of TOK_CREATE, in order (R254, R255). -/
def requestSizes (c : Cfg) : List Nat :=
  (if c.pubP then [] else [6]) ++ (if c.privP then [] else [6]) ++ (if c.keyP then [] else [16]) ++ [2]

/-- The public_id of R250 from the answers to the entropy requests. -/
def pubFrom (s : State) (as : List (List Byte)) : List Byte :=
  if s.cfg.pubP then suppliedPub s else modhexOf (as.getD 0 [])

/-- The private_id of R250 from the answers to the entropy requests. -/
def privFrom (s : State) (as : List (List Byte)) : List Byte :=
  if s.cfg.privP then suppliedPriv s else as.getD (oneIfDrawn s.cfg.pubP) []

/-- The secret_key of R250 from the answers to the entropy requests. -/
def keyFrom (s : State) (as : List (List Byte)) : List Byte :=
  if s.cfg.keyP then suppliedKey s else as.getD (oneIfDrawn s.cfg.pubP + oneIfDrawn s.cfg.privP) []

/-- The seed draw of R255 from the answers to the entropy requests. -/
def seedFrom (s : State) (as : List (List Byte)) : List Byte :=
  as.getD (oneIfDrawn s.cfg.pubP + oneIfDrawn s.cfg.privP + oneIfDrawn s.cfg.keyP) []

/-- The six commands that need a token (R274). -/
def needsToken : List Instr := [.aesEnc, .tokGenerate, .tokAdvance, .tokPubid, .tokExportKey, .tokExportPrivid]

/-- The commands that write OUT (R103). -/
def writesOut : List Instr :=
  [.mhDecodeHex, .mhEncodeHex, .mhEncodeBytes, .mhDecodeBytes, .mhRandom, .aesEnc, .tokGenerate, .tokPubid, .tokExportKey,
    .tokExportPrivid, .otpExtractPid]

/-- A bus access that R71 or R72 answers with a bus error. -/
def Misfit (w : Width) (a : Nat) : Prop :=
  (a < 0x100 ∧ (w ≠ .word ∨ a % 4 ≠ 0)) ∨ (0x100 ≤ a ∧ (w = .half ∧ a % 2 ≠ 0 ∨ w = .word ∧ a % 4 ≠ 0))

/-- The states agree in everything but the two secrets (R33). -/
def AgreeButSecrets (s t : State) : Prop :=
  t = { s with tok := { s.tok with privateId := t.tok.privateId, secretKey := t.tok.secretKey } }

/-- The outcomes are the same stop, or next states that agree in everything but the two secrets. -/
def SameButSecrets (x y : Out) : Prop :=
  match x, y with
  | .next s, .next t => AgreeButSecrets s t
  | .fault f, .fault g => f = g
  | .refused f, .refused g => f = g
  | _, _ => False

/-- Multiplication in GF(2^8) by shift and add (R202): `n` bits of `b` are left. -/
def gfMulAux (n : Nat) (a b : Byte) : Byte :=
  match n with
  | 0 => 0
  | n + 1 =>
    (if b.getLsbD 0 then a else 0) ^^^
      gfMulAux n (if a.getLsbD 7 then (a <<< 1) ^^^ 0x1B else a <<< 1) (b >>> 1)

/-- `a • b` (R202). -/
def gfMul (a b : Byte) : Byte := gfMulAux 8 a b

/-- The affine map of the S-box's definition (R203). -/
def sboxAffine (b : Byte) : Byte :=
  b ^^^ b.rotateLeft 1 ^^^ b.rotateLeft 2 ^^^ b.rotateLeft 3 ^^^ b.rotateLeft 4 ^^^ 0x63

/-- RCON[1..10], first byte (R209). -/
def roundConstants : List Byte := [0x01, 0x02, 0x04, 0x08, 0x10, 0x20, 0x40, 0x80, 0x1B, 0x36]

/-- The word `t` of R208's loop for word `i`: RotWord, SubWord and RCON if `i` is a multiple of 4. -/
def keyTerm (i : Nat) (t : List Byte) : List Byte :=
  if i % 4 = 0 then
    [sbox (t.getD 1 0) ^^^ roundConstants.getD (i / 4 - 1) 0, sbox (t.getD 2 0), sbox (t.getD 3 0), sbox (t.getD 0 0)]
  else t

/-- The words of the key expansion of R208. -/
def IsKeyExpansion (key : List Byte) (w : Nat → List Byte) : Prop :=
  (∀ i, i < 4 → w i = [key.getD (4 * i) 0, key.getD (4 * i + 1) 0, key.getD (4 * i + 2) 0, key.getD (4 * i + 3) 0]) ∧
    ∀ i, 4 ≤ i → i < 44 → w i = List.zipWith (· ^^^ ·) (w (i - 4)) (keyTerm i (w (i - 1)))

/-- Round key `k` of the expanded words (R207). -/
def roundKeyOf (w : Nat → List Byte) (k : Nat) : List Byte := w (4 * k) ++ w (4 * k + 1) ++ w (4 * k + 2) ++ w (4 * k + 3)

/-- Every statement of the host's program is a store or a load at an offset of the window, a label, a branch to a label of the program, or the reset input: what a polling host does (R108). -/
def OnlyAccesses (p : List HostStmt) : Prop :=
  ∀ st ∈ p, (∃ w a v, a < 0x400 ∧ st = .st w a v) ∨ (∃ w a, a < 0x400 ∧ st = .ld w a) ∨ (∃ l, st = .label l) ∨
    (∃ l, HostStmt.label l ∈ p ∧ st = .bneBusy l) ∨ st = .assertReset

/-- The value of bytes, the first in its low bits (R73). -/
def littleEndian (bs : List Byte) : Nat :=
  match bs with
  | [] => 0
  | b :: bs => b.toNat + 256 * littleEndian bs

/-- The host agent after a load: the next statement follows, the reply is kept, and BUSY is recorded by an `ld32 STATUS` and by no other load (R106). -/
def afterLoad (w : Width) (a : Nat) (s : State) : Agent :=
  { s.agent with
    pos := s.agent.pos + 1
    replies := s.agent.replies ++ [busRead w a s]
    lastBusy := if w = .word ∧ a = 0x004 then some s.pend.isSome else s.agent.lastBusy }

/-- Lines in which every `rep` has its `end` and every `end` its `rep` (R106). -/
inductive Balanced : List HostStmt → Prop
  | nil : Balanced []
  | line {st : HostStmt} {p : List HostStmt} (h : st ≠ .endRep ∧ ∀ n, st ≠ .rep n) (hp : Balanced p) : Balanced (st :: p)
  | loop {n : Nat} {b p : List HostStmt} (hb : Balanced b) (hp : Balanced p) : Balanced (.rep n :: (b ++ .endRep :: p))

/-- The lines that the `rep` at the host's position encloses (R106). -/
def Encloses (g : Agent) (body : List HostStmt) : Prop :=
  Balanced body ∧ ∃ rest, g.prog.drop (g.pos + 1) = body ++ .endRep :: rest

end Sys2Proof.Claims

open Sys2Proof Sys2Proof.Machine Sys2Proof.Claims

/-! ### Encoding and stepping -/

/-- R102: each OP value, as the spec's table writes it, decodes to its command. -/
def Obligations.TableWordsDecodeToTheirCommands : Prop :=
  decodeWord 0x00000010 = .ok .mhIsValid ∧ decodeWord 0x00000011 = .ok .mhValidate ∧
  decodeWord 0x00000012 = .ok .mhValidateLen ∧ decodeWord 0x00000013 = .ok .mhDecodeHex ∧
  decodeWord 0x00000014 = .ok .mhDecodeInt ∧ decodeWord 0x00000015 = .ok .mhEncodeHex ∧
  decodeWord 0x00000016 = .ok .mhEncodeBytes ∧ decodeWord 0x00000017 = .ok .mhDecodeBytes ∧
  decodeWord 0x00000018 = .ok .mhRandom ∧ decodeWord 0x00000020 = .ok .crc16 ∧
  decodeWord 0x00000021 = .ok .crc16Verify ∧ decodeWord 0x00000030 = .ok .aesEnc ∧
  decodeWord 0x00000040 = .ok .tokCreate ∧ decodeWord 0x00000041 = .ok .tokGenerate ∧
  decodeWord 0x00000042 = .ok .tokAdvance ∧ decodeWord 0x00000043 = .ok .tokPubid ∧
  decodeWord 0x00000044 = .ok .tokExportKey ∧ decodeWord 0x00000045 = .ok .tokExportPrivid ∧
  decodeWord 0x00000050 = .ok .otpValidate ∧ decodeWord 0x00000051 = .ok .otpExtractPid

/-- R101, R102, R105: decoding the encoding of a command gives it back with the bytes after it, and bytes that decode to a command are its encoding, so no other word of the 2^32 is taken for it. -/
def Obligations.DecodeAndEncodeAgree : Prop :=
  (∀ (i : Instr) (rest : List Byte), i.wf = true → decode (encode i ++ rest) = .ok (i, rest)) ∧
  ∀ (bs : List Byte) (i : Instr) (rest : List Byte), decode bs = .ok (i, rest) → bs = encode i ++ rest

/-- R104, R105: the decoder rejects exactly the words whose RSVD is not 0 or whose OP is not in the map. -/
def Obligations.ReservedWordsAreRejected : Prop :=
  ∀ w : Word, (∃ x, decodeWord w = .error x) ↔ (w.toNat / 256 ≠ 0 ∨ w.toNat % 256 ∉ opValues)

/-- R104: an illegal command completes with IllegalCommand, detail 0, info 0, and changes no state but STATUS and ERR_INFO. -/
def Obligations.IllegalCommandCompletes : Prop :=
  ErrCode.illegalCommand.code = 0x10 ∧
  ∀ (s : State) (w : Word), BlockTurn s w → (w.toNat / 256 ≠ 0 ∨ w.toNat % 256 ∉ opValues) →
    step s = .next (failed .illegalCommand 0 0 s)

/-- R324: in the block's turn the step is the meaning of the command that the latched word decodes to; and a word placed by withFetchWord is run by the very next step, which is no rule of the spec but the model's own placement (log entry 2). -/
def Obligations.StepRunsTheDecodedCommand : Prop :=
  (∀ (s : State) (w : Word) (i : Instr), BlockTurn s w → decodeWord w = .ok i → step s = exec i s) ∧
  ∀ (s : State) (n : Nat) (i : Instr), decodeTableWord 32 n = some i →
    step (s.withFetchWord 32 n) = exec i (s.withFetchWord 32 n)

/-- R17, R335: in the host's turn the step is its next statement, one host step fewer being left before the block's (the model's count of the latency: log entry 3); an idle block whose host has no statement stays as it is (the model's choice for an idle machine: log entry 12). -/
def Obligations.HostTurnRunsTheNextStatement : Prop :=
  (∀ (s : State) (st : HostStmt), HostTurn s → s.agent.prog[s.agent.pos]? = some st →
    step s = hostStmt st { s with delay := s.delay - 1 }) ∧
  ∀ s : State, s.pend = none → s.agent.prog.length ≤ s.agent.pos → step s = .next s

/-- R324 to R326: the block's step always gives a next state, in which nothing is pending, DONE is 1, ERR is 1 exactly when ERR_CODE is not that of success, and OVR is as before. -/
def Obligations.BlockStepCompletesTheCommand : Prop :=
  ∀ (s : State) (w : Word), BlockTurn s w → ∃ t, step s = .next t ∧ t.pend = none ∧ t.done = true ∧
    (t.err = true ↔ t.errCode ≠ .success) ∧ (t.err = false → t.errDetail = 0 ∧ t.errInfo = 0) ∧ t.ovr = s.ovr

/-- R324, R361, R369: nothing is pending after at most the latency: while the host issues accesses and polls, having read STATUS before its first branch, or the reset input comes, the machine reaches a state with nothing pending in at most one step more than the steps its latency leaves; and whatever the host's program, loops included, it does so or stops with a fault of that program. The command has then been executed, or a reset has discarded it (R361). The model's choices in it: that the latency is a number of host steps (log entry 3), the reset as an entry of the host's program (log entry 15), and the faults (log entries 13 and 14). -/
def Obligations.NothingIsPendingAfterTheLatency : Prop :=
  (∀ s : State, s.pend ≠ none → OnlyAccesses s.agent.prog → s.agent.lastBusy ≠ none →
    ∃ k t, 1 ≤ k ∧ k ≤ s.delay + 1 ∧ Host.Core.run core k s = .next t ∧ t.pend = none) ∧
  ∀ s : State, s.pend ≠ none → ∃ k, 1 ≤ k ∧ k ≤ s.delay + 1 ∧
    ((∃ t, Host.Core.run core k s = .next t ∧ t.pend = none) ∨ ∃ f, Host.Core.run core k s = .fault f)

/-! ### Invariants and whole-machine rules -/

/-- R34, R37, R38, R213, R320, R321, R323: every step keeps the invariant of the block. -/
def Obligations.StepKeepsTheInvariant : Prop :=
  ∀ s t : State, Inv s → step s = .next t → Inv t

/-- The invariant holds after reset. -/
def Obligations.ResetMeetsTheInvariant : Prop := Inv State.reset

/-- R35: apart from reset, only TOK_CREATE writes the identity, the secrets, the seed and the valid bit; the counter, session_use and the timestamp change only in the commands R35 names. -/
def Obligations.OnlyTokenCommandsWriteTheToken : Prop :=
  ∀ s t : State, step s = .next t → ¬ (HostTurn s ∧ ResetNext s) →
    ((t.tok.publicId ≠ s.tok.publicId ∨ t.tok.privateId ≠ s.tok.privateId ∨ t.tok.secretKey ≠ s.tok.secretKey ∨
      t.tok.randomSeed ≠ s.tok.randomSeed ∨ t.tok.valid ≠ s.tok.valid) → s.pend = some 0x40) ∧
    (t.tok.counter ≠ s.tok.counter → s.pend = some 0x40 ∨ s.pend = some 0x42) ∧
    (t.tok.sessionUse ≠ s.tok.sessionUse → s.pend = some 0x40 ∨ s.pend = some 0x41 ∨ s.pend = some 0x42) ∧
    (t.tok.timestamp ≠ s.tok.timestamp → s.pend = some 0x40 ∨ s.pend = some 0x41)

/-- R326, R329: a command that ends with an error has changed nothing but STATUS, ERR_INFO and what the environment has been asked; the one exception is TOK_GENERATE's RandomSourceFailure. -/
def Obligations.ErrorsLeaveNoEffect : Prop :=
  ∀ (i : Instr) (s t : State), exec i s = .next t → t.err = true →
    ¬ (i = .tokGenerate ∧ t.errCode = .randomSourceFailure) →
    t = { failed t.errCode t.errDetail t.errInfo s with draws := t.draws, ports := t.ports }

/-- R31, R36, R103: a result location changes only in the commands that name it; no command changes OVR, an operand register, IN or the host agent. -/
def Obligations.ResultsChangeOnlyInTheirCommands : Prop :=
  ∀ (i : Instr) (s t : State), exec i s = .next t →
    (t.resBool ≠ s.resBool → i = .mhIsValid ∨ i = .crc16Verify) ∧
    (t.resCrc ≠ s.resCrc → i = .crc16 ∨ i = .tokGenerate) ∧
    (t.resIntLo ≠ s.resIntLo ∨ t.resIntHi ≠ s.resIntHi → i = .mhDecodeInt ∨ i = .otpValidate) ∧
    (t.resCounter ≠ s.resCounter ∨ t.resSession ≠ s.resSession ∨ t.resTimestamp ≠ s.resTimestamp → i = .tokGenerate) ∧
    (t.outLen ≠ s.outLen → i ∈ writesOut) ∧
    (∀ a, Memory.read t.mem a ≠ Memory.read s.mem a → i ∈ writesOut ∧ 0x200 ≤ a ∧ a < 0x400) ∧
    t.ovr = s.ovr ∧ t.inLen = s.inLen ∧ t.arg = s.arg ∧ t.cfg = s.cfg ∧ t.agent = s.agent

/-- R78, R83: while a command is pending no host step but a reset changes the latched word, an operand register, a buffer or the token: the command reads what stood there at its acceptance. -/
def Obligations.PendingCommandKeepsItsOperands : Prop :=
  ∀ (s t : State) (w : Word), s.pend = some w → HostTurn s → ¬ ResetNext s → step s = .next t →
    t.pend = some w ∧ t.mem = s.mem ∧ t.inLen = s.inLen ∧ t.arg = s.arg ∧ t.cfg = s.cfg ∧ t.tok = s.tok ∧
    t.done = s.done ∧ t.err = s.err ∧ (s.ovr = true → t.ovr = true)

/-- R25, R76, R330: OVR falls only by a write to STATUS with bit 4 set while idle, or by a reset. -/
def Obligations.OvrIsClearedOnlyByWritingOne : Prop :=
  ∀ s t : State, step s = .next t → s.ovr = true → t.ovr = false →
    (HostTurn s ∧ ResetNext s) ∨ (s.pend = none ∧ ∃ v : Word, s.agent.prog[s.agent.pos]? = some (.st .word 0x004 v) ∧ v.getLsbD 4 = true)

/-- R25, R38, R77: an idle block becomes busy only by a 4-byte write to CMD, and the latch then holds the value written. -/
def Obligations.OnlyACmdWriteMakesTheBlockBusy : Prop :=
  ∀ s t : State, step s = .next t → s.pend = none → t.pend ≠ none →
    ∃ v : Word, s.agent.prog[s.agent.pos]? = some (.st .word 0x000 v) ∧ t.pend = some v ∧ t.done = false

/-- R274, R327: without a token each of the six commands that need one ends with NoToken, whatever else is wrong, and changes nothing else. -/
def Obligations.TokenCommandsNeedAToken : Prop :=
  ∀ (i : Instr) (s : State), i ∈ needsToken → s.tok.valid = false → exec i s = .next (failed .noToken 0 0 s)

/-- R33, R39: the private_id and the secret_key reach the host's view only through AES_ENC, TOK_GENERATE, TOK_EXPORT_KEY and TOK_EXPORT_PRIVID: a step that runs none of them takes two states that differ only in the secrets to two that differ only in the secrets, and every bus read answers the same in both. -/
def Obligations.SecretsLeaveOnlyByTheirCommands : Prop :=
  ∀ s t : State, AgreeButSecrets s t →
    (∀ w a, busRead w a s = busRead w a t) ∧
    ((∀ w, BlockTurn s w → w ≠ 0x30 ∧ w ≠ 0x41 ∧ w ≠ 0x44 ∧ w ≠ 0x45) → SameButSecrets (step s) (step t))

/-! ### The window -/

/-- R71, R72: an access that does not fit is answered by a bus error and changes nothing, whatever the block does; an access that fits is not. That every write that fits is answered ok, an ignored or dropped one too, is the model's choice (log entry 17). -/
def Obligations.MisfitAccessIsABusError : Prop :=
  ∀ (w : Width) (a : Nat) (v : Word) (s : State), a < 0x400 →
    (Misfit w a → busRead w a s = .busError ∧ busWrite w a v s = (.busError, s)) ∧
    (¬ Misfit w a → (∃ d, busRead w a s = .data d) ∧ (busWrite w a v s).1 = .ok)

/-- R77: a 4-byte write to CMD while idle accepts a command, whatever its value; after how many host steps it runs is open, and the next latency of the environment is taken (log entry 3). -/
def Obligations.CmdWriteAcceptsACommand : Prop :=
  ∀ (s : State) (v : Word), s.pend = none → ∃ n, busWrite .word 0x000 v s =
    (.ok, { s with
      pend := some v, done := false, err := false, errCode := .success, errDetail := 0, errInfo := 0
      draws := s.draws + 1, delay := n, ports := { s.ports with latency := s.ports.latency.tail } })

/-- R78: while a command is pending every write that fits is dropped and sets OVR, and nothing else changes; a bus error is no dropped write. The reply ok of a dropped write is the model's choice (log entry 17). -/
def Obligations.BusyWritesAreDropped : Prop :=
  ∀ (s : State) (w : Width) (a : Nat) (v : Word), s.pend ≠ none → a < 0x400 →
    (¬ Misfit w a → busWrite w a v s = (.ok, { s with ovr := true })) ∧
    (Misfit w a → busWrite w a v s = (.busError, s))

/-- R24, R26 to R28, R76: what a write to a register other than CMD does while idle: the used bits of IN_LEN, ARG and CFG, the write-one-to-clear of OVR, and nothing anywhere else. The reply ok of an ignored write is the model's choice (log entry 17). -/
def Obligations.IdleRegisterWrites : Prop :=
  ∀ (s : State) (v : Word), s.pend = none →
    busWrite .word 0x008 v s = (.ok, { s with inLen := BitVec.ofNat 9 v.toNat }) ∧
    busWrite .word 0x00C v s = (.ok, { s with arg := v }) ∧
    busWrite .word 0x010 v s = (.ok, { s with cfg :=
      { pubP := v.toNat % 2 == 1, privP := v.toNat / 2 % 2 == 1, keyP := v.toNat / 4 % 2 == 1
        pubLen := BitVec.ofNat 8 (v.toNat / 2 ^ 8), privLen := BitVec.ofNat 8 (v.toNat / 2 ^ 16)
        keyLen := BitVec.ofNat 8 (v.toNat / 2 ^ 24) } }) ∧
    busWrite .word 0x004 v s = (.ok, { s with ovr := s.ovr && !v.getLsbD 4 }) ∧
    (∀ a, 0x014 ≤ a → a < 0x100 → a % 4 = 0 → busWrite .word a v s = (.ok, s)) ∧
    ∀ w a, 0x200 ≤ a → a < 0x400 → ¬ Misfit w a → busWrite w a v s = (.ok, s)

/-- R73, R76: a write to IN while idle stores its bytes little-endian, changes no other byte and no register, and a read of the same width finds the value again, at the low bytes of a wider value. What a store of a value wider than its access does is the model's choice (log entry 19); for a value that fits it is R73's. -/
def Obligations.InWritesAreLittleEndian : Prop :=
  ∀ (s : State) (w : Width) (a : Nat) (v : Word), s.pend = none → 0x100 ≤ a → a < 0x200 → ¬ Misfit w a →
    ∃ m, busWrite w a v s = (.ok, { s with mem := m }) ∧
      (∀ k, k < w.bytes → Memory.read m (a + k) = some (BitVec.ofNat 8 (v.toNat / 2 ^ (8 * k)))) ∧
      (∀ b, b < a ∨ a + w.bytes ≤ b → Memory.read m b = Memory.read s.mem b) ∧
      busRead w a { s with mem := m } = .data (BitVec.ofNat 32 (v.toNat % 2 ^ (8 * w.bytes))) ∧
      ∀ k, k < w.bytes → busRead .byte (a + k) { s with mem := m } = .data (BitVec.ofNat 32 (v.toNat / 2 ^ (8 * k) % 256))

/-- R23, R24, R26 to R32, R73, R75, R88: what each register reads while idle, CMD and the reserved offsets reading 0; and what IN and OUT read where every byte of the access has been written: the value of the bytes, little-endian. -/
def Obligations.IdleRegisterReads : Prop :=
  ∀ s : State, s.pend = none →
    busRead .word 0x000 s = .data 0 ∧
    busRead .word 0x008 s = .data (BitVec.ofNat 32 s.inLen.toNat) ∧
    busRead .word 0x00C s = .data s.arg ∧
    busRead .word 0x010 s = .data (BitVec.ofNat 32 (s.cfg.pubP.toNat + 2 * s.cfg.privP.toNat + 4 * s.cfg.keyP.toNat +
      2 ^ 8 * s.cfg.pubLen.toNat + 2 ^ 16 * s.cfg.privLen.toNat + 2 ^ 24 * s.cfg.keyLen.toNat)) ∧
    busRead .word 0x014 s = .data (BitVec.ofNat 32 s.outLen.toNat) ∧
    busRead .word 0x018 s = .data s.errInfo ∧
    busRead .word 0x01C s = .data (BitVec.ofNat 32 s.resBool.toNat) ∧
    busRead .word 0x020 s = .data (BitVec.ofNat 32 s.resCrc.toNat) ∧
    busRead .word 0x024 s = .data s.resIntLo ∧
    busRead .word 0x028 s = .data s.resIntHi ∧
    busRead .word 0x02C s = .data (BitVec.ofNat 32 s.resCounter.toNat) ∧
    busRead .word 0x030 s = .data (BitVec.ofNat 32 s.resSession.toNat) ∧
    busRead .word 0x034 s = .data (BitVec.ofNat 32 s.resTimestamp.toNat) ∧
    busRead .word 0x038 s = .data (BitVec.ofNat 32 s.tok.counter.toNat) ∧
    busRead .word 0x03C s = .data (BitVec.ofNat 32 s.tok.sessionUse.toNat) ∧
    busRead .word 0x040 s = .data (BitVec.ofNat 32 s.tok.timestamp.toNat) ∧
    busRead .word 0x044 s = .data (BitVec.ofNat 32 s.tok.randomSeed.toNat) ∧
    (∀ a, 0x048 ≤ a → a < 0x100 → a % 4 = 0 → busRead .word a s = .data 0) ∧
    ∀ (w : Width) (a : Nat) (bs : List Byte), 0x100 ≤ a → a < 0x400 → ¬ Misfit w a → bs.length = w.bytes →
      (∀ k, k < w.bytes → Memory.read s.mem (a + k) = some (bs.getD k 0)) →
      busRead w a s = .data (BitVec.ofNat 32 (littleEndian bs))

/-- R25, R38, R320: STATUS reads its fields in their places, busy or idle: BUSY is `pend ≠ none`, TOKEN_VALID mirrors `tok.valid`, and the reserved bits read 0. -/
def Obligations.StatusReadsItsFields : Prop :=
  ∀ s : State, busRead .word 0x004 s = .data (BitVec.ofNat 32 (s.pend.isSome.toNat + 2 * s.done.toNat + 4 * s.err.toNat +
    8 * s.tok.valid.toNat + 16 * s.ovr.toNat + 2 ^ 8 * s.errCode.code.toNat + 2 ^ 16 * s.errDetail.toNat)) ∧
    [ErrCode.success, .invalidModhexChar, .invalidModhexLength, .invalidHexInput, .invalidPublicId, .invalidPrivateId,
      .invalidSecretKey, .otpInvalidLength, .otpInvalidFormat, .randomSourceFailure, .cipherInitFailure, .illegalCommand,
      .argumentRange, .noToken].map (fun c => c.code.toNat) =
      [0x00, 0x01, 0x02, 0x03, 0x04, 0x05, 0x06, 0x07, 0x08, 0x09, 0x0A, 0x10, 0x11, 0x12]

/-- R79: while a command is pending, STATUS, IN_LEN, ARG, CFG, IN and CMD read as R75 says, and OUT and the result registers read a free value, so not what stands there. That the read's number alone decides the value is the model's form of the draw (log entry 8), and that the reserved offsets read 0 then too is the model's choice (log entry 9). -/
def Obligations.BusyReads : Prop :=
  ∀ (s : State) (w : Width) (a : Nat), s.pend ≠ none → ¬ Misfit w a →
    (a = 0x004 → busRead w a s = .data (registerValue s a)) ∧
    ((a < 0x014 ∧ a ≠ 0x004 ∨ 0x100 ≤ a ∧ a < 0x200) → busRead w a s = busRead w a { s with pend := none }) ∧
    ((0x014 ≤ a ∧ a ≤ 0x044 ∨ 0x200 ≤ a ∧ a < 0x400) →
      ∀ t : State, t.pend ≠ none → t.draws = s.draws → busRead w a s = busRead w a t) ∧
    (0x048 ≤ a → a < 0x100 → busRead w a s = .data 0)

/-- R75, R81, R106: a load of the host's program changes no state of the block: only the host agent, as `afterLoad` says, and the request counter move, also for a load that is answered by a bus error, after which the host goes on (log entry 1); and a second read of registers or written bytes answers the same while idle. -/
def Obligations.ReadsHaveNoSideEffect : Prop :=
  ∀ (s : State) (w : Width) (a : Nat), a < 0x400 →
    hostStmt (.ld w a) s = .next { s with draws := s.draws + 1, agent := afterLoad w a s } ∧
    ∀ n, s.pend = none → (a < 0x100 ∨ ∀ k, k < w.bytes → Memory.read s.mem (a + k) ≠ none) →
      busRead w a { s with draws := n } = busRead w a s

/-- R40, R134: the input string is the IN_LEN bytes at the start of IN; a byte that has been written reads as it was written. (A byte that has not is a free value of Config: log entry 4.) -/
def Obligations.InputStringIsReadFromIn : Prop :=
  ∀ s : State, (input s).length = s.inLen.toNat ∧
    ∀ i, i < s.inLen.toNat → (input s).getD i 0 =
      match Memory.read s.mem (0x100 + i) with
      | some b => b
      | none => Config.unwrittenByte s.draws (0x100 + i)

/-! ### Reset -/

/-- R42: after reset every register of the window reads 0, nothing is pending, no token exists, every token field is zero and no token command tells, and no buffer byte has been written. -/
def Obligations.ResetLeavesTheResetValues : Prop :=
  (∀ a, a < 0x100 → a % 4 = 0 → busRead .word a State.reset = .data 0) ∧
  State.reset.pend = none ∧ State.reset.tok.valid = false ∧
  fieldBytes State.reset.tok.publicId = List.replicate 12 0 ∧
  fieldBytes State.reset.tok.privateId = List.replicate 6 0 ∧
  fieldBytes State.reset.tok.secretKey = List.replicate 16 0 ∧
  State.reset.tok.counter = 0 ∧ State.reset.tok.sessionUse = 0 ∧ State.reset.tok.timestamp = 0 ∧
  State.reset.tok.randomSeed = 0 ∧
  (∀ a, Memory.read State.reset.mem a = none) ∧
  ∀ i ∈ needsToken, exec i State.reset = .next (failed .noToken 0 0 State.reset)

/-- R360 to R362: the reset input, asserted in any state, a pending command or not, leaves the block's reset state: what is left of the old state is the model's own record of host and environment. -/
def Obligations.ResetInputClearsTheBlock : Prop :=
  ∀ s : State, HostTurn s → ResetNext s →
    step s = .next { State.reset with
      draws := s.draws, ports := s.ports, agent := { s.agent with pos := s.agent.pos + 1 } }

/-! ### The modhex codec -/

/-- R130, R131: the model's tables are the spec's: MH and MHinv are mutual inverses on the nibbles and the alphabet. -/
def Obligations.ModhexTablesAreMutualInverses : Prop :=
  (∀ n : Nibble, mh n = charOf n.toNat ∧ isMh (mh n) = true ∧ mhInv (mh n) = n) ∧
  ∀ c : Byte, (isMh c = true ↔ c ∈ alphabet) ∧ (c ∈ alphabet → mh (mhInv c) = c ∧ (mhInv c).toNat = nibbleOf c)

/-- R136: the tables are mutual inverses, and the round trips of bytes and of hexadecimal text, for non-empty inputs; the empty string fails with InvalidModhexLength. -/
def Obligations.ModhexRoundTrips : Prop :=
  (∀ n : Nibble, mhInv (mh n) = n) ∧ (∀ c ∈ alphabet, mh (mhInv c) = c) ∧
  (∀ b : List Byte, b ≠ [] → decodeBytes (mhBytes b) = .ok b) ∧
  (∀ h : List Byte, h ≠ [] → h.length % 2 = 0 → (∀ c ∈ h, IsHexChar c) →
    ∃ m, encodeHex h = .ok m ∧ decodeHex m = .ok (h.map lower)) ∧
  decodeBytes (mhBytes []) = .error ⟨.invalidModhexLength, 1, 0⟩ ∧
  ∃ m, encodeHex [] = .ok m ∧ decodeHex m = .error ⟨.invalidModhexLength, 1, 0⟩

/-- R137: MH_IS_VALID. -/
def Obligations.MhIsValidRule : Prop :=
  decodeWord 0x00000010 = .ok .mhIsValid ∧ RangeChecked .mhIsValid ∧
  ∀ s : State, s.inLen.toNat ≤ 256 → ∃ b : Bool, (b = true ↔ Modhex (input s)) ∧
    exec .mhIsValid s = .next { succeeded (readOnce s) with resBool := b }

/-- R138: MH_VALIDATE. -/
def Obligations.MhValidateRule : Prop :=
  decodeWord 0x00000011 = .ok .mhValidate ∧ RangeChecked .mhValidate ∧
  ∀ s : State, s.inLen.toNat ≤ 256 → VErrors .mhValidate s ∧
    (Modhex (input s) → exec .mhValidate s = .next (succeeded (readOnce s)))

/-- R139: MH_VALIDATE_LEN. -/
def Obligations.MhValidateLenRule : Prop :=
  decodeWord 0x00000012 = .ok .mhValidateLen ∧ RangeChecked .mhValidateLen ∧
  ∀ s : State, s.inLen.toNat ≤ 256 →
    (s.inLen.toNat ≠ s.arg.toNat → exec .mhValidateLen s = .next (failed .invalidModhexLength 2 0 (readOnce s))) ∧
    (s.inLen.toNat = s.arg.toNat → VErrors .mhValidateLen s ∧
      (Modhex (input s) → exec .mhValidateLen s = .next (succeeded (readOnce s))))

/-- R140: MH_DECODE_HEX. -/
def Obligations.MhDecodeHexRule : Prop :=
  decodeWord 0x00000013 = .ok .mhDecodeHex ∧ RangeChecked .mhDecodeHex ∧
  ∀ s : State, s.inLen.toNat ≤ 256 → VErrors .mhDecodeHex s ∧
    (Modhex (input s) →
      AnswersOut .mhDecodeHex s (readOnce s) ((input s).map fun c => hexDigits.getD (nibbleOf c) 0))

/-- R141: MH_DECODE_INT. -/
def Obligations.MhDecodeIntRule : Prop :=
  decodeWord 0x00000014 = .ok .mhDecodeInt ∧ RangeChecked .mhDecodeInt ∧
  ∀ s : State, s.inLen.toNat ≤ 256 → VErrors .mhDecodeInt s ∧
    (Modhex (input s) → 16 < s.inLen.toNat →
      exec .mhDecodeInt s = .next (failed .invalidModhexLength 3 0 (readOnce s))) ∧
    (Modhex (input s) → s.inLen.toNat ≤ 16 → placeValue (input s) < 2 ^ 64 ∧
      exec .mhDecodeInt s = .next { succeeded (readOnce s) with
        resIntHi := BitVec.ofNat 32 (placeValue (input s) / 2 ^ 32), resIntLo := BitVec.ofNat 32 (placeValue (input s)) })

/-- R142: MH_ENCODE_HEX. -/
def Obligations.MhEncodeHexRule : Prop :=
  decodeWord 0x00000015 = .ok .mhEncodeHex ∧ RangeChecked .mhEncodeHex ∧
  ∀ s : State, s.inLen.toNat ≤ 256 →
    (s.inLen.toNat % 2 = 1 → exec .mhEncodeHex s = .next (failed .invalidHexInput 1 0 (readOnce s))) ∧
    (s.inLen.toNat % 2 = 0 → ∀ k, FirstOffender IsHexChar (input s) k →
      exec .mhEncodeHex s = .next (failed .invalidHexInput 2 (BitVec.ofNat 32 k) (readOnce s))) ∧
    (s.inLen.toNat % 2 = 0 → (∀ c ∈ input s, IsHexChar c) →
      AnswersOut .mhEncodeHex s (readOnce s) ((input s).map fun c => charOf (hexDigits.idxOf (lower c))))

/-- R143: MH_ENCODE_BYTES. -/
def Obligations.MhEncodeBytesRule : Prop :=
  decodeWord 0x00000016 = .ok .mhEncodeBytes ∧ RangeChecked .mhEncodeBytes ∧
  ∀ s : State, s.inLen.toNat ≤ 256 →
    (modhexOf (input s)).length = 2 * s.inLen.toNat ∧ AnswersOut .mhEncodeBytes s (readOnce s) (modhexOf (input s))

/-- R144: MH_DECODE_BYTES. -/
def Obligations.MhDecodeBytesRule : Prop :=
  decodeWord 0x00000017 = .ok .mhDecodeBytes ∧ RangeChecked .mhDecodeBytes ∧
  ∀ s : State, s.inLen.toNat ≤ 256 → VErrors .mhDecodeBytes s ∧
    (Modhex (input s) → s.inLen.toNat % 2 = 1 →
      exec .mhDecodeBytes s = .next (failed .invalidModhexLength 4 0 (readOnce s))) ∧
    (Modhex (input s) → s.inLen.toNat % 2 = 0 →
      AnswersOut .mhDecodeBytes s (readOnce s) ((List.range (s.inLen.toNat / 2)).map fun j =>
        BitVec.ofNat 8 (16 * nibbleOf ((input s).getD (2 * j) 0) + nibbleOf ((input s).getD (2 * j + 1) 0))))

/-- R145: MH_RANDOM; IN and IN_LEN are not read. -/
def Obligations.MhRandomRule : Prop :=
  decodeWord 0x00000018 = .ok .mhRandom ∧
  ∀ s : State,
    (512 < s.arg.toNat → exec .mhRandom s = .next (failed .argumentRange 2 0 s)) ∧
    (s.arg.toNat ≤ 512 → s.arg.toNat % 2 = 1 → exec .mhRandom s = .next (failed .invalidModhexLength 5 0 s)) ∧
    (s.arg = 0 → AnswersOut .mhRandom s s []) ∧
    (0 < s.arg.toNat → s.arg.toNat ≤ 512 → s.arg.toNat % 2 = 0 →
      (nextEntropy (s.arg.toNat / 2) s = none →
        exec .mhRandom s = .next (failed .randomSourceFailure 0 0 (popEntropy s))) ∧
      ∀ b, nextEntropy (s.arg.toNat / 2) s = some b → (modhexOf b).length = s.arg.toNat ∧ Modhex (modhexOf b) ∧
        AnswersOut .mhRandom s (popEntropy s) (modhexOf b))

/-! ### CRC-16 -/

/-- R180, R182: CRC16 writes the register that the bit-serial algorithm leaves; L = 0 gives 0xFFFF. -/
def Obligations.Crc16Rule : Prop :=
  decodeWord 0x00000020 = .ok .crc16 ∧ RangeChecked .crc16 ∧
  ∀ s : State, s.inLen.toNat ≤ 256 → crcNat (input s) < 2 ^ 16 ∧
    exec .crc16 s = .next { succeeded (readOnce s) with resCrc := BitVec.ofNat 16 (crcNat (input s)) }

/-- R183: CRC16_VERIFY compares with ARG[15:0] and leaves RES_CRC. -/
def Obligations.Crc16VerifyRule : Prop :=
  decodeWord 0x00000021 = .ok .crc16Verify ∧ RangeChecked .crc16Verify ∧
  ∀ s : State, s.inLen.toNat ≤ 256 →
    exec .crc16Verify s = .next { succeeded (readOnce s) with
      resBool := decide (crcNat (input s) = s.arg.toNat % 65536) }

/-- Derived from R180: the CRC is over the message as a polynomial: a message followed by its own CRC, high byte first, has CRC 0. -/
def Obligations.CrcOfMessageWithItsCrcIsZero : Prop :=
  ∀ bs : List Byte, crc16 (bs ++ [(crc16 bs).extractLsb' 8 8, (crc16 bs).extractLsb' 0 8]) = 0

/-! ### AES-128 -/

/-- R203: the S-box table is the affine map of the inverse in GF(2^8), 0 mapping to 0. -/
def Obligations.SboxIsItsDefinition : Prop :=
  sbox 0 = sboxAffine 0 ∧ ∀ a : Byte, a ≠ 0 → ∃ b : Byte, gfMul a b = 1 ∧ sbox a = sboxAffine b

/-- R204 to R206: SubBytes, ShiftRows and MixColumns by row and column, on a state of 16 bytes. -/
def Obligations.RoundOperationsByRowAndColumn : Prop :=
  ∀ s : List Byte, s.length = 16 → ∀ r c, r < 4 → c < 4 →
    cell (subBytes s) r c = sbox (cell s r c) ∧
    cell (shiftRows s) r c = cell s r ((c + r) % 4) ∧
    cell (mixColumns s) r c =
      gfMul 2 (cell s r c) ^^^ gfMul 3 (cell s ((r + 1) % 4) c) ^^^ cell s ((r + 2) % 4) c ^^^ cell s ((r + 3) % 4) c

/-- R207 to R210: the round keys are the expanded key words, four a round, and the cipher is AddRoundKey(0), nine full rounds and the last without MixColumns. -/
def Obligations.CipherRunsItsRoundsOverTheExpandedKey : Prop :=
  ∀ (key block : List Byte) (w s : Nat → List Byte), key.length = 16 → block.length = 16 → IsKeyExpansion key w →
    (key :: roundKeys key) = (List.range 11).map (roundKeyOf w) ∧
    (s 0 = List.zipWith (· ^^^ ·) block (roundKeyOf w 0) →
      (∀ k, 1 ≤ k → k ≤ 9 →
        s k = List.zipWith (· ^^^ ·) (mixColumns (shiftRows (subBytes (s (k - 1))))) (roundKeyOf w k)) →
      aes128 key block = List.zipWith (· ^^^ ·) (shiftRows (subBytes (s 9))) (roundKeyOf w 10))

/-- Derived from R201 to R210: under one key the cipher never maps two blocks to one, whatever the key. -/
def Obligations.CipherIsInjective : Prop :=
  ∀ key x y : List Byte, key.length = 16 → x.length = 16 → y.length = 16 → aes128 key x = aes128 key y → x = y

/-- R212: AES_ENC. -/
def Obligations.AesEncRule : Prop :=
  decodeWord 0x00000030 = .ok .aesEnc ∧
  ∀ s : State,
    (s.tok.valid = false → exec .aesEnc s = .next (failed .noToken 0 0 s)) ∧
    (s.tok.valid = true → s.inLen ≠ 16 → exec .aesEnc s = .next (failed .argumentRange 4 0 s)) ∧
    (s.tok.valid = true → s.inLen = 16 →
      (aes128 (fieldBytes s.tok.secretKey) (input s)).length = 16 ∧
      AnswersOut .aesEnc s (readOnce s) (aes128 (fieldBytes s.tok.secretKey) (input s)))

/-! ### The token -/

/-- R251 to R253: the length check and the field checks of TOK_CREATE in their order; each failure changes nothing else, and a configuration that fits passes them, whatever its bytes. -/
def Obligations.TokCreateChecksItsConfiguration : Prop :=
  ∀ s : State,
    (256 < suppliedLen s.cfg → exec .tokCreate s = .next (failed .argumentRange 3 0 s)) ∧
    (suppliedLen s.cfg ≤ 256 → s.cfg.pubP = true → s.cfg.pubLen ≠ 12 →
      exec .tokCreate s = .next (failed .invalidPublicId 1 0 (readOnce s))) ∧
    (suppliedLen s.cfg ≤ 256 → s.cfg.pubP = true → s.cfg.pubLen = 12 →
      ∀ k, FirstOffender (· ∈ alphabet) (suppliedPub s) k →
        exec .tokCreate s = .next (failed .invalidPublicId 2 (BitVec.ofNat 32 k) (readOnce s))) ∧
    (suppliedLen s.cfg ≤ 256 → PubFits s → s.cfg.privP = true → s.cfg.privLen ≠ 6 →
      exec .tokCreate s = .next (failed .invalidPrivateId 1 0 (readOnce s))) ∧
    (suppliedLen s.cfg ≤ 256 → PubFits s → PrivFits s → s.cfg.keyP = true → s.cfg.keyLen ≠ 16 →
      exec .tokCreate s = .next (failed .invalidSecretKey 1 0 (readOnce s))) ∧
    (suppliedLen s.cfg ≤ 256 → PubFits s → PrivFits s → KeyFits s →
      ∃ t, exec .tokCreate s = .next t ∧ (t.err = true → t.errCode = .randomSourceFailure))

/-- R250, R251, R254 to R256, R258: present lengths that sum to more than 256 fail; the present fields stand packed in IN in their order, without gaps (`suppliedPub`, `suppliedPriv`, `suppliedKey`); a TOK_CREATE whose configuration fits and whose entropy requests, of the sizes and in the order of R254 and R255, are answered by `as`: it completes, and the token is the supplied and drawn fields, counter 1, session_use 0, the low 24 bits of the time sample and the little-endian seed; nothing else is written. -/
def Obligations.TokCreateCommitsTheToken : Prop :=
  (∀ s : State, 256 < suppliedLen s.cfg → exec .tokCreate s = .next (failed .argumentRange 3 0 s)) ∧
  ∀ (s : State) (as : List (List Byte)) (es : List (Option (List Byte))) (τ : Nat) (ts : List Nat),
    suppliedLen s.cfg ≤ 256 → PubFits s → PrivFits s → KeyFits s →
    as.map List.length = requestSizes s.cfg → s.ports.entropy = as.map some ++ es → s.ports.time = τ :: ts →
    ∃ tok n, exec .tokCreate s = .next { succeeded s with
        tok := tok, draws := n, ports := { s.ports with entropy := es, time := ts } } ∧
      tok.valid = true ∧ fieldBytes tok.publicId = pubFrom s as ∧ fieldBytes tok.privateId = privFrom s as ∧
      fieldBytes tok.secretKey = keyFrom s as ∧ tok.counter = 1 ∧ tok.sessionUse = 0 ∧
      tok.timestamp = BitVec.ofNat 24 τ ∧
      tok.randomSeed.toNat = ((seedFrom s as).getD 0 0).toNat + 256 * ((seedFrom s as).getD 1 0).toNat

/-- R257: a TOK_CREATE whose configuration fits and one of whose entropy requests is answered by `fail` ends with RandomSourceFailure and leaves the old token; no later request is made and no time sample is taken. -/
def Obligations.TokCreateFailsWholly : Prop :=
  ∀ (s : State) (as : List (List Byte)) (es : List (Option (List Byte))) (k : Nat),
    suppliedLen s.cfg ≤ 256 → PubFits s → PrivFits s → KeyFits s →
    k < (requestSizes s.cfg).length → as.map List.length = (requestSizes s.cfg).take k →
    s.ports.entropy = as.map some ++ none :: es →
    ∃ n, exec .tokCreate s = .next { failed .randomSourceFailure 0 0 s with
      draws := n, ports := { s.ports with entropy := es } }

/-- R34, R250, R257: whatever the configuration and the environment's answers, TOK_CREATE gives a next state: with an error the token is unchanged, without one there is a token with counter 1 and session_use 0 whose public_id is of the alphabet; OUT, OUT_LEN, IN and the result registers are not written. -/
def Obligations.TokCreateIsAllOrNothing : Prop :=
  ∀ s : State, ∃ t, exec .tokCreate s = .next t ∧ t.pend = none ∧ t.done = true ∧
    (t.err = true → t.tok = s.tok) ∧
    (t.err = false → t.tok.valid = true ∧ t.tok.counter = 1 ∧ t.tok.sessionUse = 0 ∧
      ∀ c ∈ fieldBytes t.tok.publicId, c ∈ alphabet) ∧
    t.mem = s.mem ∧ t.outLen = s.outLen ∧ t.resBool = s.resBool ∧ t.resCrc = s.resCrc ∧ t.resIntLo = s.resIntLo ∧
    t.resIntHi = s.resIntHi ∧ t.resCounter = s.resCounter ∧ t.resSession = s.resSession ∧
    t.resTimestamp = s.resTimestamp ∧ t.inLen = s.inLen ∧ t.arg = s.arg ∧ t.cfg = s.cfg ∧ t.ovr = s.ovr

/-- R260 to R267: TOK_GENERATE. The record and the audit values hold the incremented session_use and the refreshed timestamp; a failing entropy request keeps both and writes nothing else. -/
def Obligations.TokGenerateRule : Prop :=
  decodeWord 0x00000041 = .ok .tokGenerate ∧
  ∀ s : State,
    (s.tok.valid = false → exec .tokGenerate s = .next (failed .noToken 0 0 s)) ∧
    (s.tok.valid = true → nextEntropy 2 (popTime s) = none →
      exec .tokGenerate s = .next { failed .randomSourceFailure 0 0 (popEntropy (popTime s)) with
        tok := { s.tok with sessionUse := s.tok.sessionUse + 1, timestamp := BitVec.ofNat 24 (nextTime s) } }) ∧
    ∀ rnd, s.tok.valid = true → nextEntropy 2 (popTime s) = some rnd → ∃ m,
      exec .tokGenerate s = .next { succeeded (popEntropy (popTime s)) with
        tok := { s.tok with sessionUse := s.tok.sessionUse + 1, timestamp := BitVec.ofNat 24 (nextTime s) }
        outLen := 44
        mem := m
        resCounter := s.tok.counter
        resSession := s.tok.sessionUse + 1
        resTimestamp := BitVec.ofNat 24 (nextTime s)
        resCrc := BitVec.ofNat 16 (crcNat (recordBytes (fieldBytes s.tok.privateId) s.tok.counter.toNat
          (nextTime s % 2 ^ 24) ((s.tok.sessionUse.toNat + 1) % 256) rnd)) } ∧
      OutHolds s.mem m (fieldBytes s.tok.publicId ++ modhexOf (aes128 (fieldBytes s.tok.secretKey)
        (recordOf (fieldBytes s.tok.privateId) s.tok.counter.toNat (nextTime s % 2 ^ 24)
          ((s.tok.sessionUse.toNat + 1) % 256) rnd)))

/-- R268: the OTP of a successful TOK_GENERATE is 44 characters of the alphabet and begins with the public_id; that a token's public_id is of the alphabet is the invariant of R34. -/
def Obligations.GeneratedOtpIsWellFormed : Prop :=
  ∀ s t : State, Inv s → exec .tokGenerate s = .next t → t.err = false →
    t.outLen = 44 ∧
    (∀ i, i < 44 → ∃ c, Memory.read t.mem (0x200 + i) = some c ∧ c ∈ alphabet) ∧
    ∀ i, i < 12 → Memory.read t.mem (0x200 + i) = some ((fieldBytes s.tok.publicId).getD i 0)

/-- R270: TOK_ADVANCE; the counter wraps modulo 2^16, session_use becomes 0, and the timestamp stays. -/
def Obligations.TokAdvanceRule : Prop :=
  decodeWord 0x00000042 = .ok .tokAdvance ∧
  ∀ s : State,
    (s.tok.valid = false → exec .tokAdvance s = .next (failed .noToken 0 0 s)) ∧
    (s.tok.valid = true → exec .tokAdvance s = .next { succeeded s with
      tok := { s.tok with counter := BitVec.ofNat 16 ((s.tok.counter.toNat + 1) % 65536), sessionUse := 0 } })

/-- R271 to R273: TOK_PUBID, TOK_EXPORT_KEY and TOK_EXPORT_PRIVID copy the public_id, the secret_key and the private_id to OUT. -/
def Obligations.AccessorsCopyTheirField : Prop :=
  decodeWord 0x00000043 = .ok .tokPubid ∧ decodeWord 0x00000044 = .ok .tokExportKey ∧
  decodeWord 0x00000045 = .ok .tokExportPrivid ∧
  ∀ s : State,
    (s.tok.valid = false → ∀ i ∈ [Instr.tokPubid, .tokExportKey, .tokExportPrivid], exec i s = .next (failed .noToken 0 0 s)) ∧
    (s.tok.valid = true →
      AnswersOut .tokPubid s s (fieldBytes s.tok.publicId) ∧ (fieldBytes s.tok.publicId).length = 12 ∧
      AnswersOut .tokExportKey s s (fieldBytes s.tok.secretKey) ∧ (fieldBytes s.tok.secretKey).length = 16 ∧
      AnswersOut .tokExportPrivid s s (fieldBytes s.tok.privateId) ∧ (fieldBytes s.tok.privateId).length = 6)

/-! ### The parser -/

/-- R301: OTP_VALIDATE. -/
def Obligations.OtpValidateRule : Prop :=
  decodeWord 0x00000050 = .ok .otpValidate ∧ RangeChecked .otpValidate ∧
  ∀ s : State, s.inLen.toNat ≤ 256 →
    (s.inLen ≠ 44 → exec .otpValidate s = .next (failed .otpInvalidLength 0 0 (readOnce s))) ∧
    (s.inLen = 44 → ∀ k, FirstOffender (· ∈ alphabet) (input s) k →
      exec .otpValidate s = .next (failed .otpInvalidFormat 0 (BitVec.ofNat 32 k) (readOnce s))) ∧
    (s.inLen = 44 → (∀ c ∈ input s, c ∈ alphabet) → placeValue ((input s).take 12) < 2 ^ 48 ∧
      exec .otpValidate s = .next { succeeded (readOnce s) with
        resIntHi := BitVec.ofNat 32 (placeValue ((input s).take 12) / 2 ^ 32)
        resIntLo := BitVec.ofNat 32 (placeValue ((input s).take 12)) })

/-- R302: OTP_EXTRACT_PID; RES_INT is not written. -/
def Obligations.OtpExtractPidRule : Prop :=
  decodeWord 0x00000051 = .ok .otpExtractPid ∧ RangeChecked .otpExtractPid ∧
  ∀ s : State, s.inLen.toNat ≤ 256 →
    (s.inLen ≠ 44 → exec .otpExtractPid s = .next (failed .otpInvalidLength 0 0 (readOnce s))) ∧
    (s.inLen = 44 → ∀ k, FirstOffender (· ∈ alphabet) (input s) k →
      exec .otpExtractPid s = .next (failed .otpInvalidFormat 0 (BitVec.ofNat 32 k) (readOnce s))) ∧
    (s.inLen = 44 → (∀ c ∈ input s, c ∈ alphabet) →
      AnswersOut .otpExtractPid s (readOnce s) ((input s).take 12))

/-! ### The host's program -/

/-- R106: the statements of the host's program: a store does what the bus write does, a load what the bus read does, `rep` and `end` run the lines N times (`rep 0` goes past its `end`, whatever loops stand between), a label does nothing, `bne_busy` goes to its label exactly if the last `ld32 STATUS` had BUSY = 1. The model's choices in it: how the program is held (log entry 2), that the host goes on after a bus error (log entry 1), and the faults of an access outside the window (log entry 13) and of a `rep` without its `end`, an `end` without its `rep`, and a branch that is taken without a label or comes before a STATUS read, that a branch not taken needs no label, and what an `end` closes after a branch into or out of a loop (log entry 14). -/
def Obligations.HostStatementsByTheirRules : Prop :=
  ∀ s : State,
    (∀ w a v, a < 0x400 → hostStmt (.st w a v) s = .next { (busWrite w a v s).2 with agent :=
      { s.agent with pos := s.agent.pos + 1, replies := s.agent.replies ++ [(busWrite w a v s).1] } }) ∧
    (∀ w a, a < 0x400 → hostStmt (.ld w a) s = .next { s with draws := s.draws + 1, agent := afterLoad w a s }) ∧
    (∀ w a v, 0x400 ≤ a → hostStmt (.st w a v) s = .fault .outsideWindow ∧ hostStmt (.ld w a) s = .fault .outsideWindow) ∧
    (∀ body, Encloses s.agent body →
      (∀ n, hostStmt (.rep (n + 1)) s = .next { s with agent :=
        { s.agent with pos := s.agent.pos + 1, loops := (s.agent.pos + 1, n) :: s.agent.loops } }) ∧
      hostStmt (.rep 0) s = .next { s with agent := { s.agent with pos := s.agent.pos + body.length + 2 } }) ∧
    ((∀ body, ¬ Encloses s.agent body) → ∀ n, hostStmt (.rep n) s = .fault .unmatchedLoop) ∧
    (∀ p n ls, s.agent.loops = (p, n + 1) :: ls → hostStmt .endRep s = .next { s with agent :=
      { s.agent with pos := p, loops := (p, n) :: ls } }) ∧
    (∀ p ls, s.agent.loops = (p, 0) :: ls → hostStmt .endRep s = .next { s with agent :=
      { s.agent with pos := s.agent.pos + 1, loops := ls } }) ∧
    (s.agent.loops = [] → hostStmt .endRep s = .fault .unmatchedLoop) ∧
    (∀ l, hostStmt (.label l) s = .next { s with agent := { s.agent with pos := s.agent.pos + 1 } }) ∧
    (∀ l, s.agent.lastBusy = some false → hostStmt (.bneBusy l) s = .next { s with agent :=
      { s.agent with pos := s.agent.pos + 1 } }) ∧
    (∀ l, s.agent.lastBusy = some true → .label l ∈ s.agent.prog → ∃ p, s.agent.prog[p]? = some (.label l) ∧
      hostStmt (.bneBusy l) s = .next { s with agent := { s.agent with pos := p } }) ∧
    (∀ l, s.agent.lastBusy = some true → .label l ∉ s.agent.prog → hostStmt (.bneBusy l) s = .fault .noSuchLabel) ∧
    ∀ l, s.agent.lastBusy = none → hostStmt (.bneBusy l) s = .fault .branchBeforeStatus
end

