-- ==== Sys2Proof/Laws/State.lean ====
section
/-! SUPPORT. One lemma for each field of State and each shared update of it: the field's value after the update. -/

namespace Sys2Proof.Machine

/-! ### tick -/

@[simp] theorem tick_pend (s : State) : (tick s).pend = s.pend := rfl
@[simp] theorem tick_done (s : State) : (tick s).done = s.done := rfl
@[simp] theorem tick_err (s : State) : (tick s).err = s.err := rfl
@[simp] theorem tick_ovr (s : State) : (tick s).ovr = s.ovr := rfl
@[simp] theorem tick_errCode (s : State) : (tick s).errCode = s.errCode := rfl
@[simp] theorem tick_errDetail (s : State) : (tick s).errDetail = s.errDetail := rfl
@[simp] theorem tick_inLen (s : State) : (tick s).inLen = s.inLen := rfl
@[simp] theorem tick_arg (s : State) : (tick s).arg = s.arg := rfl
@[simp] theorem tick_cfg (s : State) : (tick s).cfg = s.cfg := rfl
@[simp] theorem tick_outLen (s : State) : (tick s).outLen = s.outLen := rfl
@[simp] theorem tick_errInfo (s : State) : (tick s).errInfo = s.errInfo := rfl
@[simp] theorem tick_resBool (s : State) : (tick s).resBool = s.resBool := rfl
@[simp] theorem tick_resCrc (s : State) : (tick s).resCrc = s.resCrc := rfl
@[simp] theorem tick_resIntLo (s : State) : (tick s).resIntLo = s.resIntLo := rfl
@[simp] theorem tick_resIntHi (s : State) : (tick s).resIntHi = s.resIntHi := rfl
@[simp] theorem tick_resCounter (s : State) : (tick s).resCounter = s.resCounter := rfl
@[simp] theorem tick_resSession (s : State) : (tick s).resSession = s.resSession := rfl
@[simp] theorem tick_resTimestamp (s : State) : (tick s).resTimestamp = s.resTimestamp := rfl
@[simp] theorem tick_tok (s : State) : (tick s).tok = s.tok := rfl
@[simp] theorem tick_mem (s : State) : (tick s).mem = s.mem := rfl
@[simp] theorem tick_draws (s : State) : (tick s).draws = s.draws + 1 := rfl
@[simp] theorem tick_delay (s : State) : (tick s).delay = s.delay := rfl
@[simp] theorem tick_ports (s : State) : (tick s).ports = s.ports := rfl
@[simp] theorem tick_agent (s : State) : (tick s).agent = s.agent := rfl

/-! ### popEntropy -/

@[simp] theorem popEntropy_pend (s : State) : (popEntropy s).pend = s.pend := rfl
@[simp] theorem popEntropy_done (s : State) : (popEntropy s).done = s.done := rfl
@[simp] theorem popEntropy_err (s : State) : (popEntropy s).err = s.err := rfl
@[simp] theorem popEntropy_ovr (s : State) : (popEntropy s).ovr = s.ovr := rfl
@[simp] theorem popEntropy_errCode (s : State) : (popEntropy s).errCode = s.errCode := rfl
@[simp] theorem popEntropy_errDetail (s : State) : (popEntropy s).errDetail = s.errDetail := rfl
@[simp] theorem popEntropy_inLen (s : State) : (popEntropy s).inLen = s.inLen := rfl
@[simp] theorem popEntropy_arg (s : State) : (popEntropy s).arg = s.arg := rfl
@[simp] theorem popEntropy_cfg (s : State) : (popEntropy s).cfg = s.cfg := rfl
@[simp] theorem popEntropy_outLen (s : State) : (popEntropy s).outLen = s.outLen := rfl
@[simp] theorem popEntropy_errInfo (s : State) : (popEntropy s).errInfo = s.errInfo := rfl
@[simp] theorem popEntropy_resBool (s : State) : (popEntropy s).resBool = s.resBool := rfl
@[simp] theorem popEntropy_resCrc (s : State) : (popEntropy s).resCrc = s.resCrc := rfl
@[simp] theorem popEntropy_resIntLo (s : State) : (popEntropy s).resIntLo = s.resIntLo := rfl
@[simp] theorem popEntropy_resIntHi (s : State) : (popEntropy s).resIntHi = s.resIntHi := rfl
@[simp] theorem popEntropy_resCounter (s : State) : (popEntropy s).resCounter = s.resCounter := rfl
@[simp] theorem popEntropy_resSession (s : State) : (popEntropy s).resSession = s.resSession := rfl
@[simp] theorem popEntropy_resTimestamp (s : State) : (popEntropy s).resTimestamp = s.resTimestamp := rfl
@[simp] theorem popEntropy_tok (s : State) : (popEntropy s).tok = s.tok := rfl
@[simp] theorem popEntropy_mem (s : State) : (popEntropy s).mem = s.mem := rfl
@[simp] theorem popEntropy_draws (s : State) : (popEntropy s).draws = s.draws + 1 := rfl
@[simp] theorem popEntropy_delay (s : State) : (popEntropy s).delay = s.delay := rfl
@[simp] theorem popEntropy_ports (s : State) : (popEntropy s).ports = { s.ports with entropy := s.ports.entropy.tail } := rfl
@[simp] theorem popEntropy_agent (s : State) : (popEntropy s).agent = s.agent := rfl

/-! ### popTime -/

@[simp] theorem popTime_pend (s : State) : (popTime s).pend = s.pend := rfl
@[simp] theorem popTime_done (s : State) : (popTime s).done = s.done := rfl
@[simp] theorem popTime_err (s : State) : (popTime s).err = s.err := rfl
@[simp] theorem popTime_ovr (s : State) : (popTime s).ovr = s.ovr := rfl
@[simp] theorem popTime_errCode (s : State) : (popTime s).errCode = s.errCode := rfl
@[simp] theorem popTime_errDetail (s : State) : (popTime s).errDetail = s.errDetail := rfl
@[simp] theorem popTime_inLen (s : State) : (popTime s).inLen = s.inLen := rfl
@[simp] theorem popTime_arg (s : State) : (popTime s).arg = s.arg := rfl
@[simp] theorem popTime_cfg (s : State) : (popTime s).cfg = s.cfg := rfl
@[simp] theorem popTime_outLen (s : State) : (popTime s).outLen = s.outLen := rfl
@[simp] theorem popTime_errInfo (s : State) : (popTime s).errInfo = s.errInfo := rfl
@[simp] theorem popTime_resBool (s : State) : (popTime s).resBool = s.resBool := rfl
@[simp] theorem popTime_resCrc (s : State) : (popTime s).resCrc = s.resCrc := rfl
@[simp] theorem popTime_resIntLo (s : State) : (popTime s).resIntLo = s.resIntLo := rfl
@[simp] theorem popTime_resIntHi (s : State) : (popTime s).resIntHi = s.resIntHi := rfl
@[simp] theorem popTime_resCounter (s : State) : (popTime s).resCounter = s.resCounter := rfl
@[simp] theorem popTime_resSession (s : State) : (popTime s).resSession = s.resSession := rfl
@[simp] theorem popTime_resTimestamp (s : State) : (popTime s).resTimestamp = s.resTimestamp := rfl
@[simp] theorem popTime_tok (s : State) : (popTime s).tok = s.tok := rfl
@[simp] theorem popTime_mem (s : State) : (popTime s).mem = s.mem := rfl
@[simp] theorem popTime_draws (s : State) : (popTime s).draws = s.draws + 1 := rfl
@[simp] theorem popTime_delay (s : State) : (popTime s).delay = s.delay := rfl
@[simp] theorem popTime_ports (s : State) : (popTime s).ports = { s.ports with time := s.ports.time.tail } := rfl
@[simp] theorem popTime_agent (s : State) : (popTime s).agent = s.agent := rfl

/-! ### popLatency -/

@[simp] theorem popLatency_pend (s : State) : (popLatency s).pend = s.pend := rfl
@[simp] theorem popLatency_done (s : State) : (popLatency s).done = s.done := rfl
@[simp] theorem popLatency_err (s : State) : (popLatency s).err = s.err := rfl
@[simp] theorem popLatency_ovr (s : State) : (popLatency s).ovr = s.ovr := rfl
@[simp] theorem popLatency_errCode (s : State) : (popLatency s).errCode = s.errCode := rfl
@[simp] theorem popLatency_errDetail (s : State) : (popLatency s).errDetail = s.errDetail := rfl
@[simp] theorem popLatency_inLen (s : State) : (popLatency s).inLen = s.inLen := rfl
@[simp] theorem popLatency_arg (s : State) : (popLatency s).arg = s.arg := rfl
@[simp] theorem popLatency_cfg (s : State) : (popLatency s).cfg = s.cfg := rfl
@[simp] theorem popLatency_outLen (s : State) : (popLatency s).outLen = s.outLen := rfl
@[simp] theorem popLatency_errInfo (s : State) : (popLatency s).errInfo = s.errInfo := rfl
@[simp] theorem popLatency_resBool (s : State) : (popLatency s).resBool = s.resBool := rfl
@[simp] theorem popLatency_resCrc (s : State) : (popLatency s).resCrc = s.resCrc := rfl
@[simp] theorem popLatency_resIntLo (s : State) : (popLatency s).resIntLo = s.resIntLo := rfl
@[simp] theorem popLatency_resIntHi (s : State) : (popLatency s).resIntHi = s.resIntHi := rfl
@[simp] theorem popLatency_resCounter (s : State) : (popLatency s).resCounter = s.resCounter := rfl
@[simp] theorem popLatency_resSession (s : State) : (popLatency s).resSession = s.resSession := rfl
@[simp] theorem popLatency_resTimestamp (s : State) : (popLatency s).resTimestamp = s.resTimestamp := rfl
@[simp] theorem popLatency_tok (s : State) : (popLatency s).tok = s.tok := rfl
@[simp] theorem popLatency_mem (s : State) : (popLatency s).mem = s.mem := rfl
@[simp] theorem popLatency_draws (s : State) : (popLatency s).draws = s.draws + 1 := rfl
@[simp] theorem popLatency_delay (s : State) : (popLatency s).delay = s.delay := rfl
@[simp] theorem popLatency_ports (s : State) : (popLatency s).ports = { s.ports with latency := s.ports.latency.tail } := rfl
@[simp] theorem popLatency_agent (s : State) : (popLatency s).agent = s.agent := rfl

/-! ### complete -/

@[simp] theorem complete_pend (s : State) : (complete s).pend = none := rfl
@[simp] theorem complete_done (s : State) : (complete s).done = true := rfl
@[simp] theorem complete_err (s : State) : (complete s).err = false := rfl
@[simp] theorem complete_ovr (s : State) : (complete s).ovr = s.ovr := rfl
@[simp] theorem complete_errCode (s : State) : (complete s).errCode = .success := rfl
@[simp] theorem complete_errDetail (s : State) : (complete s).errDetail = 0 := rfl
@[simp] theorem complete_inLen (s : State) : (complete s).inLen = s.inLen := rfl
@[simp] theorem complete_arg (s : State) : (complete s).arg = s.arg := rfl
@[simp] theorem complete_cfg (s : State) : (complete s).cfg = s.cfg := rfl
@[simp] theorem complete_outLen (s : State) : (complete s).outLen = s.outLen := rfl
@[simp] theorem complete_errInfo (s : State) : (complete s).errInfo = 0 := rfl
@[simp] theorem complete_resBool (s : State) : (complete s).resBool = s.resBool := rfl
@[simp] theorem complete_resCrc (s : State) : (complete s).resCrc = s.resCrc := rfl
@[simp] theorem complete_resIntLo (s : State) : (complete s).resIntLo = s.resIntLo := rfl
@[simp] theorem complete_resIntHi (s : State) : (complete s).resIntHi = s.resIntHi := rfl
@[simp] theorem complete_resCounter (s : State) : (complete s).resCounter = s.resCounter := rfl
@[simp] theorem complete_resSession (s : State) : (complete s).resSession = s.resSession := rfl
@[simp] theorem complete_resTimestamp (s : State) : (complete s).resTimestamp = s.resTimestamp := rfl
@[simp] theorem complete_tok (s : State) : (complete s).tok = s.tok := rfl
@[simp] theorem complete_mem (s : State) : (complete s).mem = s.mem := rfl
@[simp] theorem complete_draws (s : State) : (complete s).draws = s.draws := rfl
@[simp] theorem complete_delay (s : State) : (complete s).delay = s.delay := rfl
@[simp] theorem complete_ports (s : State) : (complete s).ports = s.ports := rfl
@[simp] theorem complete_agent (s : State) : (complete s).agent = s.agent := rfl

/-! ### raise -/

@[simp] theorem raise_pend (x : CmdError) (s : State) : (raise x s).pend = none := rfl
@[simp] theorem raise_done (x : CmdError) (s : State) : (raise x s).done = true := rfl
@[simp] theorem raise_err (x : CmdError) (s : State) : (raise x s).err = true := rfl
@[simp] theorem raise_ovr (x : CmdError) (s : State) : (raise x s).ovr = s.ovr := rfl
@[simp] theorem raise_errCode (x : CmdError) (s : State) : (raise x s).errCode = x.code := rfl
@[simp] theorem raise_errDetail (x : CmdError) (s : State) : (raise x s).errDetail = x.detail := rfl
@[simp] theorem raise_inLen (x : CmdError) (s : State) : (raise x s).inLen = s.inLen := rfl
@[simp] theorem raise_arg (x : CmdError) (s : State) : (raise x s).arg = s.arg := rfl
@[simp] theorem raise_cfg (x : CmdError) (s : State) : (raise x s).cfg = s.cfg := rfl
@[simp] theorem raise_outLen (x : CmdError) (s : State) : (raise x s).outLen = s.outLen := rfl
@[simp] theorem raise_errInfo (x : CmdError) (s : State) : (raise x s).errInfo = x.info := rfl
@[simp] theorem raise_resBool (x : CmdError) (s : State) : (raise x s).resBool = s.resBool := rfl
@[simp] theorem raise_resCrc (x : CmdError) (s : State) : (raise x s).resCrc = s.resCrc := rfl
@[simp] theorem raise_resIntLo (x : CmdError) (s : State) : (raise x s).resIntLo = s.resIntLo := rfl
@[simp] theorem raise_resIntHi (x : CmdError) (s : State) : (raise x s).resIntHi = s.resIntHi := rfl
@[simp] theorem raise_resCounter (x : CmdError) (s : State) : (raise x s).resCounter = s.resCounter := rfl
@[simp] theorem raise_resSession (x : CmdError) (s : State) : (raise x s).resSession = s.resSession := rfl
@[simp] theorem raise_resTimestamp (x : CmdError) (s : State) : (raise x s).resTimestamp = s.resTimestamp := rfl
@[simp] theorem raise_tok (x : CmdError) (s : State) : (raise x s).tok = s.tok := rfl
@[simp] theorem raise_mem (x : CmdError) (s : State) : (raise x s).mem = s.mem := rfl
@[simp] theorem raise_draws (x : CmdError) (s : State) : (raise x s).draws = s.draws := rfl
@[simp] theorem raise_delay (x : CmdError) (s : State) : (raise x s).delay = s.delay := rfl
@[simp] theorem raise_ports (x : CmdError) (s : State) : (raise x s).ports = s.ports := rfl
@[simp] theorem raise_agent (x : CmdError) (s : State) : (raise x s).agent = s.agent := rfl

/-! ### latchCommand -/

@[simp] theorem latchCommand_pend (v : Word) (s : State) : (latchCommand v s).pend = some v := rfl
@[simp] theorem latchCommand_done (v : Word) (s : State) : (latchCommand v s).done = false := rfl
@[simp] theorem latchCommand_err (v : Word) (s : State) : (latchCommand v s).err = false := rfl
@[simp] theorem latchCommand_ovr (v : Word) (s : State) : (latchCommand v s).ovr = s.ovr := rfl
@[simp] theorem latchCommand_errCode (v : Word) (s : State) : (latchCommand v s).errCode = .success := rfl
@[simp] theorem latchCommand_errDetail (v : Word) (s : State) : (latchCommand v s).errDetail = 0 := rfl
@[simp] theorem latchCommand_inLen (v : Word) (s : State) : (latchCommand v s).inLen = s.inLen := rfl
@[simp] theorem latchCommand_arg (v : Word) (s : State) : (latchCommand v s).arg = s.arg := rfl
@[simp] theorem latchCommand_cfg (v : Word) (s : State) : (latchCommand v s).cfg = s.cfg := rfl
@[simp] theorem latchCommand_outLen (v : Word) (s : State) : (latchCommand v s).outLen = s.outLen := rfl
@[simp] theorem latchCommand_errInfo (v : Word) (s : State) : (latchCommand v s).errInfo = 0 := rfl
@[simp] theorem latchCommand_resBool (v : Word) (s : State) : (latchCommand v s).resBool = s.resBool := rfl
@[simp] theorem latchCommand_resCrc (v : Word) (s : State) : (latchCommand v s).resCrc = s.resCrc := rfl
@[simp] theorem latchCommand_resIntLo (v : Word) (s : State) : (latchCommand v s).resIntLo = s.resIntLo := rfl
@[simp] theorem latchCommand_resIntHi (v : Word) (s : State) : (latchCommand v s).resIntHi = s.resIntHi := rfl
@[simp] theorem latchCommand_resCounter (v : Word) (s : State) : (latchCommand v s).resCounter = s.resCounter := rfl
@[simp] theorem latchCommand_resSession (v : Word) (s : State) : (latchCommand v s).resSession = s.resSession := rfl
@[simp] theorem latchCommand_resTimestamp (v : Word) (s : State) : (latchCommand v s).resTimestamp = s.resTimestamp := rfl
@[simp] theorem latchCommand_tok (v : Word) (s : State) : (latchCommand v s).tok = s.tok := rfl
@[simp] theorem latchCommand_mem (v : Word) (s : State) : (latchCommand v s).mem = s.mem := rfl
@[simp] theorem latchCommand_draws (v : Word) (s : State) : (latchCommand v s).draws = s.draws := rfl
@[simp] theorem latchCommand_delay (v : Word) (s : State) : (latchCommand v s).delay = s.delay := rfl
@[simp] theorem latchCommand_ports (v : Word) (s : State) : (latchCommand v s).ports = s.ports := rfl
@[simp] theorem latchCommand_agent (v : Word) (s : State) : (latchCommand v s).agent = s.agent := rfl

/-! ### writeOut -/

@[simp] theorem writeOut_pend (r : List Byte) (s : State) : (writeOut r s).pend = s.pend := rfl
@[simp] theorem writeOut_done (r : List Byte) (s : State) : (writeOut r s).done = s.done := rfl
@[simp] theorem writeOut_err (r : List Byte) (s : State) : (writeOut r s).err = s.err := rfl
@[simp] theorem writeOut_ovr (r : List Byte) (s : State) : (writeOut r s).ovr = s.ovr := rfl
@[simp] theorem writeOut_errCode (r : List Byte) (s : State) : (writeOut r s).errCode = s.errCode := rfl
@[simp] theorem writeOut_errDetail (r : List Byte) (s : State) : (writeOut r s).errDetail = s.errDetail := rfl
@[simp] theorem writeOut_inLen (r : List Byte) (s : State) : (writeOut r s).inLen = s.inLen := rfl
@[simp] theorem writeOut_arg (r : List Byte) (s : State) : (writeOut r s).arg = s.arg := rfl
@[simp] theorem writeOut_cfg (r : List Byte) (s : State) : (writeOut r s).cfg = s.cfg := rfl
@[simp] theorem writeOut_outLen (r : List Byte) (s : State) : (writeOut r s).outLen = BitVec.ofNat 10 r.length := rfl
@[simp] theorem writeOut_errInfo (r : List Byte) (s : State) : (writeOut r s).errInfo = s.errInfo := rfl
@[simp] theorem writeOut_resBool (r : List Byte) (s : State) : (writeOut r s).resBool = s.resBool := rfl
@[simp] theorem writeOut_resCrc (r : List Byte) (s : State) : (writeOut r s).resCrc = s.resCrc := rfl
@[simp] theorem writeOut_resIntLo (r : List Byte) (s : State) : (writeOut r s).resIntLo = s.resIntLo := rfl
@[simp] theorem writeOut_resIntHi (r : List Byte) (s : State) : (writeOut r s).resIntHi = s.resIntHi := rfl
@[simp] theorem writeOut_resCounter (r : List Byte) (s : State) : (writeOut r s).resCounter = s.resCounter := rfl
@[simp] theorem writeOut_resSession (r : List Byte) (s : State) : (writeOut r s).resSession = s.resSession := rfl
@[simp] theorem writeOut_resTimestamp (r : List Byte) (s : State) : (writeOut r s).resTimestamp = s.resTimestamp := rfl
@[simp] theorem writeOut_tok (r : List Byte) (s : State) : (writeOut r s).tok = s.tok := rfl
@[simp] theorem writeOut_mem (r : List Byte) (s : State) : (writeOut r s).mem = Memory.writeBytes s.mem Config.outBase r := rfl
@[simp] theorem writeOut_draws (r : List Byte) (s : State) : (writeOut r s).draws = s.draws := rfl
@[simp] theorem writeOut_delay (r : List Byte) (s : State) : (writeOut r s).delay = s.delay := rfl
@[simp] theorem writeOut_ports (r : List Byte) (s : State) : (writeOut r s).ports = s.ports := rfl
@[simp] theorem writeOut_agent (r : List Byte) (s : State) : (writeOut r s).agent = s.agent := rfl

/-! ### setResBool -/

@[simp] theorem setResBool_pend (b : Bool) (s : State) : (setResBool b s).pend = s.pend := rfl
@[simp] theorem setResBool_done (b : Bool) (s : State) : (setResBool b s).done = s.done := rfl
@[simp] theorem setResBool_err (b : Bool) (s : State) : (setResBool b s).err = s.err := rfl
@[simp] theorem setResBool_ovr (b : Bool) (s : State) : (setResBool b s).ovr = s.ovr := rfl
@[simp] theorem setResBool_errCode (b : Bool) (s : State) : (setResBool b s).errCode = s.errCode := rfl
@[simp] theorem setResBool_errDetail (b : Bool) (s : State) : (setResBool b s).errDetail = s.errDetail := rfl
@[simp] theorem setResBool_inLen (b : Bool) (s : State) : (setResBool b s).inLen = s.inLen := rfl
@[simp] theorem setResBool_arg (b : Bool) (s : State) : (setResBool b s).arg = s.arg := rfl
@[simp] theorem setResBool_cfg (b : Bool) (s : State) : (setResBool b s).cfg = s.cfg := rfl
@[simp] theorem setResBool_outLen (b : Bool) (s : State) : (setResBool b s).outLen = s.outLen := rfl
@[simp] theorem setResBool_errInfo (b : Bool) (s : State) : (setResBool b s).errInfo = s.errInfo := rfl
@[simp] theorem setResBool_resBool (b : Bool) (s : State) : (setResBool b s).resBool = b := rfl
@[simp] theorem setResBool_resCrc (b : Bool) (s : State) : (setResBool b s).resCrc = s.resCrc := rfl
@[simp] theorem setResBool_resIntLo (b : Bool) (s : State) : (setResBool b s).resIntLo = s.resIntLo := rfl
@[simp] theorem setResBool_resIntHi (b : Bool) (s : State) : (setResBool b s).resIntHi = s.resIntHi := rfl
@[simp] theorem setResBool_resCounter (b : Bool) (s : State) : (setResBool b s).resCounter = s.resCounter := rfl
@[simp] theorem setResBool_resSession (b : Bool) (s : State) : (setResBool b s).resSession = s.resSession := rfl
@[simp] theorem setResBool_resTimestamp (b : Bool) (s : State) : (setResBool b s).resTimestamp = s.resTimestamp := rfl
@[simp] theorem setResBool_tok (b : Bool) (s : State) : (setResBool b s).tok = s.tok := rfl
@[simp] theorem setResBool_mem (b : Bool) (s : State) : (setResBool b s).mem = s.mem := rfl
@[simp] theorem setResBool_draws (b : Bool) (s : State) : (setResBool b s).draws = s.draws := rfl
@[simp] theorem setResBool_delay (b : Bool) (s : State) : (setResBool b s).delay = s.delay := rfl
@[simp] theorem setResBool_ports (b : Bool) (s : State) : (setResBool b s).ports = s.ports := rfl
@[simp] theorem setResBool_agent (b : Bool) (s : State) : (setResBool b s).agent = s.agent := rfl

/-! ### setResCrc -/

@[simp] theorem setResCrc_pend (c : BitVec 16) (s : State) : (setResCrc c s).pend = s.pend := rfl
@[simp] theorem setResCrc_done (c : BitVec 16) (s : State) : (setResCrc c s).done = s.done := rfl
@[simp] theorem setResCrc_err (c : BitVec 16) (s : State) : (setResCrc c s).err = s.err := rfl
@[simp] theorem setResCrc_ovr (c : BitVec 16) (s : State) : (setResCrc c s).ovr = s.ovr := rfl
@[simp] theorem setResCrc_errCode (c : BitVec 16) (s : State) : (setResCrc c s).errCode = s.errCode := rfl
@[simp] theorem setResCrc_errDetail (c : BitVec 16) (s : State) : (setResCrc c s).errDetail = s.errDetail := rfl
@[simp] theorem setResCrc_inLen (c : BitVec 16) (s : State) : (setResCrc c s).inLen = s.inLen := rfl
@[simp] theorem setResCrc_arg (c : BitVec 16) (s : State) : (setResCrc c s).arg = s.arg := rfl
@[simp] theorem setResCrc_cfg (c : BitVec 16) (s : State) : (setResCrc c s).cfg = s.cfg := rfl
@[simp] theorem setResCrc_outLen (c : BitVec 16) (s : State) : (setResCrc c s).outLen = s.outLen := rfl
@[simp] theorem setResCrc_errInfo (c : BitVec 16) (s : State) : (setResCrc c s).errInfo = s.errInfo := rfl
@[simp] theorem setResCrc_resBool (c : BitVec 16) (s : State) : (setResCrc c s).resBool = s.resBool := rfl
@[simp] theorem setResCrc_resCrc (c : BitVec 16) (s : State) : (setResCrc c s).resCrc = c := rfl
@[simp] theorem setResCrc_resIntLo (c : BitVec 16) (s : State) : (setResCrc c s).resIntLo = s.resIntLo := rfl
@[simp] theorem setResCrc_resIntHi (c : BitVec 16) (s : State) : (setResCrc c s).resIntHi = s.resIntHi := rfl
@[simp] theorem setResCrc_resCounter (c : BitVec 16) (s : State) : (setResCrc c s).resCounter = s.resCounter := rfl
@[simp] theorem setResCrc_resSession (c : BitVec 16) (s : State) : (setResCrc c s).resSession = s.resSession := rfl
@[simp] theorem setResCrc_resTimestamp (c : BitVec 16) (s : State) : (setResCrc c s).resTimestamp = s.resTimestamp := rfl
@[simp] theorem setResCrc_tok (c : BitVec 16) (s : State) : (setResCrc c s).tok = s.tok := rfl
@[simp] theorem setResCrc_mem (c : BitVec 16) (s : State) : (setResCrc c s).mem = s.mem := rfl
@[simp] theorem setResCrc_draws (c : BitVec 16) (s : State) : (setResCrc c s).draws = s.draws := rfl
@[simp] theorem setResCrc_delay (c : BitVec 16) (s : State) : (setResCrc c s).delay = s.delay := rfl
@[simp] theorem setResCrc_ports (c : BitVec 16) (s : State) : (setResCrc c s).ports = s.ports := rfl
@[simp] theorem setResCrc_agent (c : BitVec 16) (s : State) : (setResCrc c s).agent = s.agent := rfl

/-! ### setResInt -/

@[simp] theorem setResInt_pend (v : BitVec 64) (s : State) : (setResInt v s).pend = s.pend := rfl
@[simp] theorem setResInt_done (v : BitVec 64) (s : State) : (setResInt v s).done = s.done := rfl
@[simp] theorem setResInt_err (v : BitVec 64) (s : State) : (setResInt v s).err = s.err := rfl
@[simp] theorem setResInt_ovr (v : BitVec 64) (s : State) : (setResInt v s).ovr = s.ovr := rfl
@[simp] theorem setResInt_errCode (v : BitVec 64) (s : State) : (setResInt v s).errCode = s.errCode := rfl
@[simp] theorem setResInt_errDetail (v : BitVec 64) (s : State) : (setResInt v s).errDetail = s.errDetail := rfl
@[simp] theorem setResInt_inLen (v : BitVec 64) (s : State) : (setResInt v s).inLen = s.inLen := rfl
@[simp] theorem setResInt_arg (v : BitVec 64) (s : State) : (setResInt v s).arg = s.arg := rfl
@[simp] theorem setResInt_cfg (v : BitVec 64) (s : State) : (setResInt v s).cfg = s.cfg := rfl
@[simp] theorem setResInt_outLen (v : BitVec 64) (s : State) : (setResInt v s).outLen = s.outLen := rfl
@[simp] theorem setResInt_errInfo (v : BitVec 64) (s : State) : (setResInt v s).errInfo = s.errInfo := rfl
@[simp] theorem setResInt_resBool (v : BitVec 64) (s : State) : (setResInt v s).resBool = s.resBool := rfl
@[simp] theorem setResInt_resCrc (v : BitVec 64) (s : State) : (setResInt v s).resCrc = s.resCrc := rfl
@[simp] theorem setResInt_resIntLo (v : BitVec 64) (s : State) : (setResInt v s).resIntLo = v.extractLsb' 0 32 := rfl
@[simp] theorem setResInt_resIntHi (v : BitVec 64) (s : State) : (setResInt v s).resIntHi = v.extractLsb' 32 32 := rfl
@[simp] theorem setResInt_resCounter (v : BitVec 64) (s : State) : (setResInt v s).resCounter = s.resCounter := rfl
@[simp] theorem setResInt_resSession (v : BitVec 64) (s : State) : (setResInt v s).resSession = s.resSession := rfl
@[simp] theorem setResInt_resTimestamp (v : BitVec 64) (s : State) : (setResInt v s).resTimestamp = s.resTimestamp := rfl
@[simp] theorem setResInt_tok (v : BitVec 64) (s : State) : (setResInt v s).tok = s.tok := rfl
@[simp] theorem setResInt_mem (v : BitVec 64) (s : State) : (setResInt v s).mem = s.mem := rfl
@[simp] theorem setResInt_draws (v : BitVec 64) (s : State) : (setResInt v s).draws = s.draws := rfl
@[simp] theorem setResInt_delay (v : BitVec 64) (s : State) : (setResInt v s).delay = s.delay := rfl
@[simp] theorem setResInt_ports (v : BitVec 64) (s : State) : (setResInt v s).ports = s.ports := rfl
@[simp] theorem setResInt_agent (v : BitVec 64) (s : State) : (setResInt v s).agent = s.agent := rfl

/-! ### setAudit -/

@[simp] theorem setAudit_pend (rnd : List Byte) (s : State) : (setAudit rnd s).pend = s.pend := rfl
@[simp] theorem setAudit_done (rnd : List Byte) (s : State) : (setAudit rnd s).done = s.done := rfl
@[simp] theorem setAudit_err (rnd : List Byte) (s : State) : (setAudit rnd s).err = s.err := rfl
@[simp] theorem setAudit_ovr (rnd : List Byte) (s : State) : (setAudit rnd s).ovr = s.ovr := rfl
@[simp] theorem setAudit_errCode (rnd : List Byte) (s : State) : (setAudit rnd s).errCode = s.errCode := rfl
@[simp] theorem setAudit_errDetail (rnd : List Byte) (s : State) : (setAudit rnd s).errDetail = s.errDetail := rfl
@[simp] theorem setAudit_inLen (rnd : List Byte) (s : State) : (setAudit rnd s).inLen = s.inLen := rfl
@[simp] theorem setAudit_arg (rnd : List Byte) (s : State) : (setAudit rnd s).arg = s.arg := rfl
@[simp] theorem setAudit_cfg (rnd : List Byte) (s : State) : (setAudit rnd s).cfg = s.cfg := rfl
@[simp] theorem setAudit_outLen (rnd : List Byte) (s : State) : (setAudit rnd s).outLen = s.outLen := rfl
@[simp] theorem setAudit_errInfo (rnd : List Byte) (s : State) : (setAudit rnd s).errInfo = s.errInfo := rfl
@[simp] theorem setAudit_resBool (rnd : List Byte) (s : State) : (setAudit rnd s).resBool = s.resBool := rfl
@[simp] theorem setAudit_resCrc (rnd : List Byte) (s : State) : (setAudit rnd s).resCrc = crc16 (s.tok.body rnd) := rfl
@[simp] theorem setAudit_resIntLo (rnd : List Byte) (s : State) : (setAudit rnd s).resIntLo = s.resIntLo := rfl
@[simp] theorem setAudit_resIntHi (rnd : List Byte) (s : State) : (setAudit rnd s).resIntHi = s.resIntHi := rfl
@[simp] theorem setAudit_resCounter (rnd : List Byte) (s : State) : (setAudit rnd s).resCounter = s.tok.counter := rfl
@[simp] theorem setAudit_resSession (rnd : List Byte) (s : State) : (setAudit rnd s).resSession = s.tok.sessionUse := rfl
@[simp] theorem setAudit_resTimestamp (rnd : List Byte) (s : State) : (setAudit rnd s).resTimestamp = s.tok.timestamp := rfl
@[simp] theorem setAudit_tok (rnd : List Byte) (s : State) : (setAudit rnd s).tok = s.tok := rfl
@[simp] theorem setAudit_mem (rnd : List Byte) (s : State) : (setAudit rnd s).mem = s.mem := rfl
@[simp] theorem setAudit_draws (rnd : List Byte) (s : State) : (setAudit rnd s).draws = s.draws := rfl
@[simp] theorem setAudit_delay (rnd : List Byte) (s : State) : (setAudit rnd s).delay = s.delay := rfl
@[simp] theorem setAudit_ports (rnd : List Byte) (s : State) : (setAudit rnd s).ports = s.ports := rfl
@[simp] theorem setAudit_agent (rnd : List Byte) (s : State) : (setAudit rnd s).agent = s.agent := rfl

/-! ### refresh -/

@[simp] theorem refresh_pend (s : State) : (refresh s).pend = s.pend := rfl
@[simp] theorem refresh_done (s : State) : (refresh s).done = s.done := rfl
@[simp] theorem refresh_err (s : State) : (refresh s).err = s.err := rfl
@[simp] theorem refresh_ovr (s : State) : (refresh s).ovr = s.ovr := rfl
@[simp] theorem refresh_errCode (s : State) : (refresh s).errCode = s.errCode := rfl
@[simp] theorem refresh_errDetail (s : State) : (refresh s).errDetail = s.errDetail := rfl
@[simp] theorem refresh_inLen (s : State) : (refresh s).inLen = s.inLen := rfl
@[simp] theorem refresh_arg (s : State) : (refresh s).arg = s.arg := rfl
@[simp] theorem refresh_cfg (s : State) : (refresh s).cfg = s.cfg := rfl
@[simp] theorem refresh_outLen (s : State) : (refresh s).outLen = s.outLen := rfl
@[simp] theorem refresh_errInfo (s : State) : (refresh s).errInfo = s.errInfo := rfl
@[simp] theorem refresh_resBool (s : State) : (refresh s).resBool = s.resBool := rfl
@[simp] theorem refresh_resCrc (s : State) : (refresh s).resCrc = s.resCrc := rfl
@[simp] theorem refresh_resIntLo (s : State) : (refresh s).resIntLo = s.resIntLo := rfl
@[simp] theorem refresh_resIntHi (s : State) : (refresh s).resIntHi = s.resIntHi := rfl
@[simp] theorem refresh_resCounter (s : State) : (refresh s).resCounter = s.resCounter := rfl
@[simp] theorem refresh_resSession (s : State) : (refresh s).resSession = s.resSession := rfl
@[simp] theorem refresh_resTimestamp (s : State) : (refresh s).resTimestamp = s.resTimestamp := rfl
@[simp] theorem refresh_tok (s : State) : (refresh s).tok = { s.tok with sessionUse := nextSession s.tok.sessionUse, timestamp := nextStamp s } := rfl
@[simp] theorem refresh_mem (s : State) : (refresh s).mem = s.mem := rfl
@[simp] theorem refresh_draws (s : State) : (refresh s).draws = s.draws + 1 := rfl
@[simp] theorem refresh_delay (s : State) : (refresh s).delay = s.delay := rfl
@[simp] theorem refresh_ports (s : State) : (refresh s).ports = { s.ports with time := s.ports.time.tail } := rfl
@[simp] theorem refresh_agent (s : State) : (refresh s).agent = s.agent := rfl

/-! ### advanceToken -/

@[simp] theorem advanceToken_pend (u : Unit) (s : State) : (advanceToken u s).pend = s.pend := rfl
@[simp] theorem advanceToken_done (u : Unit) (s : State) : (advanceToken u s).done = s.done := rfl
@[simp] theorem advanceToken_err (u : Unit) (s : State) : (advanceToken u s).err = s.err := rfl
@[simp] theorem advanceToken_ovr (u : Unit) (s : State) : (advanceToken u s).ovr = s.ovr := rfl
@[simp] theorem advanceToken_errCode (u : Unit) (s : State) : (advanceToken u s).errCode = s.errCode := rfl
@[simp] theorem advanceToken_errDetail (u : Unit) (s : State) : (advanceToken u s).errDetail = s.errDetail := rfl
@[simp] theorem advanceToken_inLen (u : Unit) (s : State) : (advanceToken u s).inLen = s.inLen := rfl
@[simp] theorem advanceToken_arg (u : Unit) (s : State) : (advanceToken u s).arg = s.arg := rfl
@[simp] theorem advanceToken_cfg (u : Unit) (s : State) : (advanceToken u s).cfg = s.cfg := rfl
@[simp] theorem advanceToken_outLen (u : Unit) (s : State) : (advanceToken u s).outLen = s.outLen := rfl
@[simp] theorem advanceToken_errInfo (u : Unit) (s : State) : (advanceToken u s).errInfo = s.errInfo := rfl
@[simp] theorem advanceToken_resBool (u : Unit) (s : State) : (advanceToken u s).resBool = s.resBool := rfl
@[simp] theorem advanceToken_resCrc (u : Unit) (s : State) : (advanceToken u s).resCrc = s.resCrc := rfl
@[simp] theorem advanceToken_resIntLo (u : Unit) (s : State) : (advanceToken u s).resIntLo = s.resIntLo := rfl
@[simp] theorem advanceToken_resIntHi (u : Unit) (s : State) : (advanceToken u s).resIntHi = s.resIntHi := rfl
@[simp] theorem advanceToken_resCounter (u : Unit) (s : State) : (advanceToken u s).resCounter = s.resCounter := rfl
@[simp] theorem advanceToken_resSession (u : Unit) (s : State) : (advanceToken u s).resSession = s.resSession := rfl
@[simp] theorem advanceToken_resTimestamp (u : Unit) (s : State) : (advanceToken u s).resTimestamp = s.resTimestamp := rfl
@[simp] theorem advanceToken_tok (u : Unit) (s : State) : (advanceToken u s).tok = { s.tok with counter := nextCounter s.tok.counter, sessionUse := 0 } := rfl
@[simp] theorem advanceToken_mem (u : Unit) (s : State) : (advanceToken u s).mem = s.mem := rfl
@[simp] theorem advanceToken_draws (u : Unit) (s : State) : (advanceToken u s).draws = s.draws := rfl
@[simp] theorem advanceToken_delay (u : Unit) (s : State) : (advanceToken u s).delay = s.delay := rfl
@[simp] theorem advanceToken_ports (u : Unit) (s : State) : (advanceToken u s).ports = s.ports := rfl
@[simp] theorem advanceToken_agent (u : Unit) (s : State) : (advanceToken u s).agent = s.agent := rfl

/-! ### noEffect -/

@[simp] theorem noEffect_pend (u : Unit) (s : State) : (noEffect u s).pend = s.pend := rfl
@[simp] theorem noEffect_done (u : Unit) (s : State) : (noEffect u s).done = s.done := rfl
@[simp] theorem noEffect_err (u : Unit) (s : State) : (noEffect u s).err = s.err := rfl
@[simp] theorem noEffect_ovr (u : Unit) (s : State) : (noEffect u s).ovr = s.ovr := rfl
@[simp] theorem noEffect_errCode (u : Unit) (s : State) : (noEffect u s).errCode = s.errCode := rfl
@[simp] theorem noEffect_errDetail (u : Unit) (s : State) : (noEffect u s).errDetail = s.errDetail := rfl
@[simp] theorem noEffect_inLen (u : Unit) (s : State) : (noEffect u s).inLen = s.inLen := rfl
@[simp] theorem noEffect_arg (u : Unit) (s : State) : (noEffect u s).arg = s.arg := rfl
@[simp] theorem noEffect_cfg (u : Unit) (s : State) : (noEffect u s).cfg = s.cfg := rfl
@[simp] theorem noEffect_outLen (u : Unit) (s : State) : (noEffect u s).outLen = s.outLen := rfl
@[simp] theorem noEffect_errInfo (u : Unit) (s : State) : (noEffect u s).errInfo = s.errInfo := rfl
@[simp] theorem noEffect_resBool (u : Unit) (s : State) : (noEffect u s).resBool = s.resBool := rfl
@[simp] theorem noEffect_resCrc (u : Unit) (s : State) : (noEffect u s).resCrc = s.resCrc := rfl
@[simp] theorem noEffect_resIntLo (u : Unit) (s : State) : (noEffect u s).resIntLo = s.resIntLo := rfl
@[simp] theorem noEffect_resIntHi (u : Unit) (s : State) : (noEffect u s).resIntHi = s.resIntHi := rfl
@[simp] theorem noEffect_resCounter (u : Unit) (s : State) : (noEffect u s).resCounter = s.resCounter := rfl
@[simp] theorem noEffect_resSession (u : Unit) (s : State) : (noEffect u s).resSession = s.resSession := rfl
@[simp] theorem noEffect_resTimestamp (u : Unit) (s : State) : (noEffect u s).resTimestamp = s.resTimestamp := rfl
@[simp] theorem noEffect_tok (u : Unit) (s : State) : (noEffect u s).tok = s.tok := rfl
@[simp] theorem noEffect_mem (u : Unit) (s : State) : (noEffect u s).mem = s.mem := rfl
@[simp] theorem noEffect_draws (u : Unit) (s : State) : (noEffect u s).draws = s.draws := rfl
@[simp] theorem noEffect_delay (u : Unit) (s : State) : (noEffect u s).delay = s.delay := rfl
@[simp] theorem noEffect_ports (u : Unit) (s : State) : (noEffect u s).ports = s.ports := rfl
@[simp] theorem noEffect_agent (u : Unit) (s : State) : (noEffect u s).agent = s.agent := rfl

end Sys2Proof.Machine
end

