-- ==== Sys2Proof/Laws/Memory.lean ====
section
/-! SUPPORT. The laws of the buffers' bytes: reading after writing, and the canonical form kept by every write. -/

namespace Sys2Proof.Machine

@[simp] theorem Memory.read_nil (a : Nat) : Memory.read [] a = none := rfl

theorem Memory.read_cons (k : Nat) (v : Byte) (m : Memory) (a : Nat) :
    Memory.read ((k, v) :: m) a = if k = a then some v else Memory.read m a := rfl

/-- The byte written is the byte read. -/
@[simp] theorem Memory.read_write_self (m : Memory) (a : Nat) (b : Byte) :
    Memory.read (Memory.write m a b) a = some b := by
  induction m with
  | nil => simp [Memory.write, Memory.read]
  | cons c m ih =>
    obtain ⟨k, v⟩ := c
    by_cases h1 : a < k
    · simp [Memory.write, h1, Memory.read]
    · by_cases h2 : a = k
      · simp [Memory.write, h2, Memory.read]
      · simp [Memory.write, h1, h2, Memory.read, ih, Ne.symm h2]

/-- A write leaves every other byte alone. -/
theorem Memory.read_write_ne (m : Memory) {a a' : Nat} (b : Byte) (h : a' ≠ a) :
    Memory.read (Memory.write m a b) a' = Memory.read m a' := by
  induction m with
  | nil => simp [Memory.write, Memory.read, Ne.symm h]
  | cons c m ih =>
    obtain ⟨k, v⟩ := c
    by_cases h1 : a < k
    · simp [Memory.write, h1, Memory.read, Ne.symm h]
    · by_cases h2 : a = k
      · subst h2
        simp [Memory.write, Memory.read, Ne.symm h]
      · simp [Memory.write, h1, h2, Memory.read, ih]

/-- Bytes written from `a` on leave every byte outside them alone. -/
theorem Memory.read_writeBytes_outside (bs : List Byte) (m : Memory) {a a' : Nat}
    (h : a' < a ∨ a + bs.length ≤ a') : Memory.read (Memory.writeBytes m a bs) a' = Memory.read m a' := by
  induction bs generalizing m a with
  | nil => rfl
  | cons b bs ih =>
    simp only [List.length_cons] at h
    rw [Memory.writeBytes, ih _ (by omega), Memory.read_write_ne _ _ (by omega)]

/-- Byte `i` of the bytes written from `a` on is read at `a + i`. -/
theorem Memory.read_writeBytes_inside (bs : List Byte) (m : Memory) (a i : Nat) (h : i < bs.length) :
    Memory.read (Memory.writeBytes m a bs) (a + i) = some bs[i] := by
  induction bs generalizing m a i with
  | nil => simp at h
  | cons b bs ih =>
    cases i with
    | zero => rw [Memory.writeBytes, Memory.read_writeBytes_outside _ _ (by omega)]; simp
    | succ i =>
      have h' : i < bs.length := by simpa using h
      rw [Memory.writeBytes, show a + (i + 1) = a + 1 + i by omega, ih _ _ _ h']
      simp

/-- A byte that has been written stays written. -/
theorem Memory.read_writeBytes_isSome (bs : List Byte) (m : Memory) (a a' : Nat)
    (h : (Memory.read m a').isSome = true) : (Memory.read (Memory.writeBytes m a bs) a').isSome = true := by
  by_cases h' : a' < a ∨ a + bs.length ≤ a'
  · rwa [Memory.read_writeBytes_outside bs m h']
  · obtain ⟨i, rfl⟩ : ∃ i, a' = a + i := ⟨a' - a, by omega⟩
    simp [Memory.read_writeBytes_inside bs m a i (by omega)]

/-! ### The canonical form -/

theorem Memory.risesFrom_mono {lo lo' hi : Nat} {m : Memory} (h : lo' ≤ lo) (hm : Memory.risesFrom lo hi m = true) :
    Memory.risesFrom lo' hi m = true := by
  cases m with
  | nil => rfl
  | cons c m =>
    obtain ⟨k, v⟩ := c
    simp only [Memory.risesFrom, Bool.and_eq_true, decide_eq_true_eq] at hm ⊢
    exact ⟨⟨by omega, hm.1.2⟩, hm.2⟩

/-- A write in the range keeps the offsets rising. -/
theorem Memory.risesFrom_write {lo hi : Nat} {m : Memory} {a : Nat} (b : Byte) (hlo : lo ≤ a) (hhi : a < hi)
    (hm : Memory.risesFrom lo hi m = true) : Memory.risesFrom lo hi (Memory.write m a b) = true := by
  induction m generalizing lo with
  | nil => simp [Memory.write, Memory.risesFrom, hlo, hhi]
  | cons c m ih =>
    obtain ⟨k, v⟩ := c
    simp only [Memory.risesFrom, Bool.and_eq_true, decide_eq_true_eq] at hm
    obtain ⟨⟨hk, hk'⟩, hm⟩ := hm
    by_cases h1 : a < k
    · simp only [Memory.write, h1, if_true, Memory.risesFrom, Bool.and_eq_true, decide_eq_true_eq]
      exact ⟨⟨hlo, hhi⟩, ⟨by omega, hk'⟩, hm⟩
    · by_cases h2 : a = k
      · subst h2
        simp only [Memory.write, lt_irrefl, if_false, if_true, Memory.risesFrom, Bool.and_eq_true, decide_eq_true_eq]
        exact ⟨⟨hlo, hhi⟩, hm⟩
      · simp only [Memory.write, h1, h2, if_false, Memory.risesFrom, Bool.and_eq_true, decide_eq_true_eq]
        exact ⟨⟨hk, hk'⟩, ih (by omega) hm⟩

/-- A write to a buffer keeps the canonical form. -/
theorem Memory.wf_write {m : Memory} {a : Nat} (b : Byte) (hlo : Config.inBase ≤ a) (hhi : a < Config.windowSize)
    (hm : Memory.wf m = true) : Memory.wf (Memory.write m a b) = true :=
  Memory.risesFrom_write b hlo hhi hm

/-- Writing bytes inside the buffers keeps the canonical form. -/
theorem Memory.wf_writeBytes (bs : List Byte) {m : Memory} {a : Nat} (hlo : Config.inBase ≤ a)
    (hhi : a + bs.length ≤ Config.windowSize) (hm : Memory.wf m = true) :
    Memory.wf (Memory.writeBytes m a bs) = true := by
  induction bs generalizing m a with
  | nil => exact hm
  | cons b bs ih =>
    simp only [List.length_cons] at hhi
    exact ih (by omega) (by omega) (Memory.wf_write b hlo (by omega) hm)

/-- Nothing below the first offset of a rising list is written. -/
theorem Memory.read_below {lo hi a : Nat} {m : Memory} (hm : Memory.risesFrom lo hi m = true) (h : a < lo) :
    Memory.read m a = none := by
  induction m generalizing lo with
  | nil => rfl
  | cons c m ih =>
    obtain ⟨k, v⟩ := c
    simp only [Memory.risesFrom, Bool.and_eq_true, decide_eq_true_eq] at hm
    rw [Memory.read_cons, if_neg (by omega), ih hm.2 (by omega)]

/-- Two memories in canonical form that read the same everywhere are the same list. -/
theorem Memory.ext_of_read {lo hi : Nat} {m m' : Memory} (hm : Memory.risesFrom lo hi m = true)
    (hm' : Memory.risesFrom lo hi m' = true) (h : ∀ a, Memory.read m a = Memory.read m' a) : m = m' := by
  induction m generalizing lo m' with
  | nil =>
    cases m' with
    | nil => rfl
    | cons c m' => obtain ⟨k, v⟩ := c; simpa [Memory.read] using h k
  | cons c m ih =>
    obtain ⟨k, v⟩ := c
    cases m' with
    | nil => simpa [Memory.read] using h k
    | cons c' m' =>
      obtain ⟨k', v'⟩ := c'
      simp only [Memory.risesFrom, Bool.and_eq_true, decide_eq_true_eq] at hm hm'
      have hkk : k = k' := by
        rcases Nat.lt_trichotomy k k' with hlt | heq | hgt
        · have := h k
          rw [Memory.read_cons, if_pos rfl, Memory.read_cons, if_neg (by omega), Memory.read_below hm'.2 (by omega)] at this
          cases this
        · exact heq
        · have := h k'
          rw [Memory.read_cons, if_neg (by omega), Memory.read_below hm.2 (by omega), Memory.read_cons, if_pos rfl] at this
          cases this
      subst hkk
      have hv := h k
      rw [Memory.read_cons, if_pos rfl, Memory.read_cons, if_pos rfl] at hv
      cases hv
      rw [ih hm.2 hm'.2 fun a => ?_]
      have ha := h a
      by_cases hka : k = a
      · subst hka; rw [Memory.read_below hm.2 (by omega), Memory.read_below hm'.2 (by omega)]
      · rwa [Memory.read_cons, if_neg hka, Memory.read_cons, if_neg hka] at ha

/-! ### Buffer bytes and token fields -/

@[simp] theorem bufferBytes_length (s : State) (a n : Nat) : (bufferBytes s a n).length = n := by
  simp [bufferBytes]

@[simp] theorem inBytes_length (s : State) (n : Nat) : (inBytes s n).length = n := by
  simp [inBytes]

@[simp] theorem inputString_length (s : State) : (inputString s).length = inLength s := by
  simp [inputString]

/-- A byte that has been written is the byte a read finds. -/
theorem bufferByte_of_written {s : State} {a : Nat} {b : Byte} (h : Memory.read s.mem a = some b) : bufferByte s a = b := by
  simp [bufferByte, h]

/-- The bytes of a buffer that have all been written are the bytes a read finds. -/
theorem bufferBytes_of_written {s : State} {a : Nat} {bs : List Byte}
    (h : ∀ i (hi : i < bs.length), Memory.read s.mem (a + i) = some bs[i]) : bufferBytes s a bs.length = bs := by
  apply List.ext_getElem (by simp)
  intro i h1 h2
  simp [bufferBytes, bufferByte_of_written (h i h2)]

@[simp] theorem fieldBytes_length {n : Nat} (v : Vector Byte n) : (fieldBytes v).length = n := by
  simp [fieldBytes]

/-- A list of the field's length is the field's bytes. -/
theorem fieldBytes_packBytes (n : Nat) (l : List Byte) (h : l.length = n) : fieldBytes (packBytes n l) = l := by
  apply List.ext_getElem (by simp [h])
  intro i h1 h2
  simp [fieldBytes, packBytes, h2]

/-- A field's bytes determine the field. -/
theorem packBytes_fieldBytes {n : Nat} (v : Vector Byte n) : packBytes n (fieldBytes v) = v := by
  apply Vector.ext
  intro i hi
  have : i < (fieldBytes v).length := by simpa using hi
  simp [packBytes, fieldBytes, hi]

end Sys2Proof.Machine
end

