-- ==== Sys2Proof/Laws/Modhex.lean ====
section
/-! SUPPORT. The laws of the modhex tables, of the scans and of the codec's operations on byte strings. -/

namespace Sys2Proof.Machine

/-! ### Tables -/

theorem isMh_mh : ∀ n : Nibble, isMh (mh n) = true := by decide +kernel

theorem mhInv_mh : ∀ n : Nibble, mhInv (mh n) = n := by decide +kernel

theorem mh_mhInv : ∀ c : Byte, isMh c = true → mh (mhInv c) = c := by decide +kernel

theorem isMh_iff (c : Byte) : isMh c = true ↔ c ∈ modhexAlphabet := by simp [isMh]

theorem mhInv_toNat : ∀ c : Byte, isMh c = true → (mhInv c).toNat = modhexAlphabet.idxOf c := by decide +kernel

theorem nibbles_append : ∀ x : Byte, hiNibble x ++ loNibble x = x := by decide +kernel

/-! ### MHbytes and its inverse (R133, R136) -/

@[simp] theorem mhBytes_length (b : List Byte) : (mhBytes b).length = 2 * b.length := by
  induction b with
  | nil => rfl
  | cons x b ih => simp only [mhBytes, List.length_cons, ih]; omega

theorem mhBytes_isMh (b : List Byte) : (mhBytes b).all isMh = true := by
  induction b with
  | nil => rfl
  | cons x b ih => simp [mhBytes, isMh_mh, ih]

theorem pairBytes_mhBytes (b : List Byte) : pairBytes (mhBytes b) = b := by
  induction b with
  | nil => rfl
  | cons x b ih => simp [mhBytes, pairBytes, mhInv_mh, nibbles_append, ih]

theorem pairBytes_length (s : List Byte) : (pairBytes s).length = s.length / 2 := by
  induction s using pairBytes.induct with
  | case1 c d s ih => simp only [pairBytes, List.length_cons, ih]; omega
  | case2 s h =>
    cases s with
    | nil => rfl
    | cons c s =>
      cases s with
      | nil => simp [pairBytes]
      | cons d s => exact (h c d s rfl).elim

/-! ### Scans (R327) -/

/-- A scan succeeds exactly if every character passes. -/
theorem scan_ok (ok : Byte → Bool) (c : ErrCode) (d : Byte) (s : List Byte) (h : ∀ x ∈ s, ok x = true) :
    scan ok c d s = .ok () := by
  have : firstBad ok s = none := by
    simp only [firstBad, List.findIdx?_eq_none_iff, Bool.not_eq_eq_eq_not, Bool.not_false]
    exact h
  simp [scan, this]

/-- A scan reports the lowest index whose character fails. -/
theorem scan_error (ok : Byte → Bool) (c : ErrCode) (d : Byte) (s : List Byte) (i : Nat) (hi : i < s.length)
    (hbad : ok s[i] = false) (hgood : ∀ j (hj : j < i), ok s[j] = true) :
    scan ok c d s = .error ⟨c, d, infoIndex i⟩ := by
  have : firstBad ok s = some i := by
    rw [firstBad, List.findIdx?_eq_some_iff_getElem]
    exact ⟨hi, by simp [hbad], fun j hj => by simp [hgood j hj]⟩
  simp [scan, this]

/-- What a scan can answer. -/
theorem scan_cases (ok : Byte → Bool) (c : ErrCode) (d : Byte) (s : List Byte) :
    (scan ok c d s = .ok () ∧ ∀ x ∈ s, ok x = true) ∨
      ∃ i, i < s.length ∧ scan ok c d s = .error ⟨c, d, infoIndex i⟩ := by
  cases h : firstBad ok s with
  | none =>
    left
    refine ⟨by simp [scan, h], ?_⟩
    simpa [firstBad, List.findIdx?_eq_none_iff] using h
  | some i =>
    right
    rw [firstBad, List.findIdx?_eq_some_iff_getElem] at h
    obtain ⟨hi, hb, hg⟩ := h
    exact ⟨i, hi, scan_error ok c d s i hi (by simpa using hb) fun j hj => by simpa using hg j hj⟩

/-- V succeeds on a non-empty string of the alphabet (R135). -/
theorem validate_ok (s : List Byte) (h0 : s ≠ []) (h : ∀ x ∈ s, isMh x = true) : validate s = .ok () := by
  have : s.length ≠ 0 := by simpa using h0
  simp [validate, this, scan_ok isMh _ _ s h]

/-- V of the empty string (R135). -/
@[simp] theorem validate_nil : validate [] = .error (err0 .invalidModhexLength 1) := rfl

/-- V of a non-empty string is its scan (R135). -/
theorem validate_of_ne_nil (s : List Byte) (h0 : s ≠ []) : validate s = scan isMh .invalidModhexChar 0 s := by
  have : s.length ≠ 0 := by simpa using h0
  simp [validate, this]

end Sys2Proof.Machine
end

