-- ==== Sys2Proof/Laws/Commands.lean ====
section
/-! SUPPORT. What each shared operation of the commands can do, said once: finishing, commands on the input string, the checks, and the errors that fit the spec's tables. -/

namespace Sys2Proof.Machine

/-! ### Finishing (R325, R326) -/

@[simp] theorem finish_ok {α : Type} (a : α) (f : α → State → State) (s : State) :
    finish (.ok a) f s = complete (f a s) := rfl

@[simp] theorem finish_error {α : Type} (x : CmdError) (f : α → State → State) (s : State) :
    finish (.error x) f s = raise x s := rfl

/-! ### Commands on the input string (R134) -/

theorem checkInLen_ok {s : State} (h : inLength s ≤ 256) : checkInLen s = .ok () := by
  simp [checkInLen, Config.inSize, Nat.not_lt.mpr h]

theorem checkInLen_error {s : State} (h : 256 < inLength s) : checkInLen s = .error (err0 .argumentRange 1) := by
  simp [checkInLen, Config.inSize, h]

/-- IN_LEN out of range: ArgumentRange detail 1 and nothing else. -/
theorem runString_range {α : Type} (f : List Byte → Except CmdError α) (w : α → State → State) {s : State}
    (h : 256 < inLength s) : runString f w s = raise (err0 .argumentRange 1) s := by
  simp [runString, checkInLen_error h]

/-- IN_LEN in range: the operation's result on the string read once. -/
theorem runString_inRange {α : Type} (f : List Byte → Except CmdError α) (w : α → State → State) {s : State}
    (h : inLength s ≤ 256) : runString f w s = finish (f (inputString s)) w (tick s) := by
  simp [runString, checkInLen_ok h]

theorem runString_ok {α : Type} {f : List Byte → Except CmdError α} {a : α} (w : α → State → State) {s : State}
    (h : inLength s ≤ 256) (hf : f (inputString s) = .ok a) : runString f w s = complete (w a (tick s)) := by
  simp [runString_inRange f w h, hf]

theorem runString_error {α : Type} {f : List Byte → Except CmdError α} {x : CmdError} (w : α → State → State)
    {s : State} (h : inLength s ≤ 256) (hf : f (inputString s) = .error x) : runString f w s = raise x (tick s) := by
  simp [runString_inRange f w h, hf]

/-- Everything a command on the input string can do. -/
theorem runString_cases {α : Type} (f : List Byte → Except CmdError α) (w : α → State → State) (s : State) :
    (256 < inLength s ∧ runString f w s = raise (err0 .argumentRange 1) s) ∨
    (inLength s ≤ 256 ∧ ∃ x, f (inputString s) = .error x ∧ runString f w s = raise x (tick s)) ∨
    (inLength s ≤ 256 ∧ ∃ a, f (inputString s) = .ok a ∧ runString f w s = complete (w a (tick s))) := by
  by_cases h : 256 < inLength s
  · exact .inl ⟨h, runString_range f w h⟩
  · have h' := Nat.not_lt.mp h
    cases hf : f (inputString s) with
    | error x => exact .inr (.inl ⟨h', x, rfl, runString_error w h' hf⟩)
    | ok a => exact .inr (.inr ⟨h', a, rfl, runString_ok w h' hf⟩)

theorem checkToken_ok {s : State} (h : s.tok.valid = true) : checkToken s = .ok () := by simp [checkToken, h]

theorem checkToken_error {s : State} (h : s.tok.valid = false) : checkToken s = .error (err0 .noToken 0) := by
  simp [checkToken, h]

/-! ### Errors that fit the tables (R320, R321, R323) -/

/-- An error that the spec's tables allow. -/
def GoodError (x : CmdError) : Prop := x.code ≠ .success ∧ errorWf x.code x.detail x.info = true

theorem goodError_err0 {c : ErrCode} {d : Byte} (hc : c ≠ .success) (hd : (detailsOf c).contains d = true)
    (hn : c ≠ .cipherInitFailure) : GoodError (err0 c d) := by
  refine ⟨hc, ?_⟩
  simp only [err0, errorWf, hd, Bool.true_and]
  simp [hn, Config.inSize]

theorem infoIndex_toNat {i : Nat} (h : i < 256) : (infoIndex i).toNat = i := by
  simp only [infoIndex, BitVec.toNat_ofNat]; omega

theorem goodError_index {c : ErrCode} {d : Byte} {i : Nat} (hc : c ≠ .success)
    (hd : (detailsOf c).contains d = true) (hn : c ≠ .cipherInitFailure) (hi : carriesInfo c d = true) (h : i < 256) :
    GoodError ⟨c, d, infoIndex i⟩ := by
  refine ⟨hc, ?_⟩
  simp only [errorWf, hd, hi, Bool.true_and, Bool.true_or, infoIndex_toNat h]
  simp [hn, Config.inSize, h]

/-- An operation on strings of at most 256 bytes whose errors all fit the tables. -/
def GoodOp {α : Type} (f : List Byte → Except CmdError α) : Prop :=
  ∀ s x, s.length ≤ 256 → f s = .error x → GoodError x

theorem scan_goodError {ok : Byte → Bool} {c : ErrCode} {d : Byte} {s : List Byte} {x : CmdError}
    (hc : c ≠ .success) (hd : (detailsOf c).contains d = true) (hn : c ≠ .cipherInitFailure)
    (hi : carriesInfo c d = true) (hl : s.length ≤ 256) (h : scan ok c d s = .error x) : GoodError x := by
  obtain ⟨h', -⟩ | ⟨i, hlt, h'⟩ := scan_cases ok c d s
  · rw [h'] at h; cases h
  · rw [h'] at h; cases h; exact goodError_index hc hd hn hi (by omega)

theorem validate_good : GoodOp validate := by
  intro s x hl h
  by_cases h0 : s = []
  · subst h0
    cases h
    exact goodError_err0 (by decide) (by decide) (by decide)
  · rw [validate_of_ne_nil s h0] at h
    exact scan_goodError (by decide) (by decide) (by decide) rfl hl h

theorem validateLen_good (n : Nat) : GoodOp (validateLen n) := by
  intro s x hl h
  by_cases hn : s.length = n
  · exact validate_good s x hl (by simpa [validateLen, hn] using h)
  · simp only [validateLen, ne_eq, hn, not_false_eq_true, if_true] at h
    cases h
    exact goodError_err0 (by decide) (by decide) (by decide)

/-- An operation that validates first answers the validation's error. -/
theorem decodeHex_error {s : List Byte} {x : CmdError} (h : validate s = .error x) : decodeHex s = .error x := by
  simp only [decodeHex, h]; rfl

theorem decodeHex_ok {s : List Byte} (h : validate s = .ok ()) :
    decodeHex s = .ok (s.map fun c => hexChar (mhInv c)) := by
  simp only [decodeHex, h]; rfl

theorem decodeInt_error {s : List Byte} {x : CmdError} (h : validate s = .error x) : decodeInt s = .error x := by
  simp only [decodeInt, h]; rfl

theorem decodeInt_long {s : List Byte} (h : validate s = .ok ()) (hl : 16 < s.length) :
    decodeInt s = .error (err0 .invalidModhexLength 3) := by
  simp only [decodeInt, h, hl, if_true]; rfl

theorem decodeInt_ok {s : List Byte} (h : validate s = .ok ()) (hl : s.length ≤ 16) :
    decodeInt s = .ok (BitVec.ofNat 64 (modhexValue s)) := by
  simp only [decodeInt, h, Nat.not_lt.mpr hl, if_false]; rfl

theorem decodeBytes_error {s : List Byte} {x : CmdError} (h : validate s = .error x) : decodeBytes s = .error x := by
  simp only [decodeBytes, h]; rfl

theorem decodeBytes_odd {s : List Byte} (h : validate s = .ok ()) (hl : s.length % 2 = 1) :
    decodeBytes s = .error (err0 .invalidModhexLength 4) := by
  simp only [decodeBytes, h, hl, ne_eq, Nat.one_ne_zero, not_false_eq_true, if_true]; rfl

theorem decodeBytes_ok {s : List Byte} (h : validate s = .ok ()) (hl : s.length % 2 = 0) :
    decodeBytes s = .ok (pairBytes s) := by
  simp only [decodeBytes, h, hl, ne_eq, not_true_eq_false, if_false]; rfl

theorem encodeHex_odd {s : List Byte} (hl : s.length % 2 = 1) : encodeHex s = .error (err0 .invalidHexInput 1) := by
  simp only [encodeHex, hl, ne_eq, Nat.one_ne_zero, not_false_eq_true, if_true]; rfl

theorem encodeHex_bad {s : List Byte} {x : CmdError} (hl : s.length % 2 = 0)
    (h : scan isHex .invalidHexInput 2 s = .error x) : encodeHex s = .error x := by
  simp only [encodeHex, hl, ne_eq, not_true_eq_false, if_false, h]; rfl

theorem encodeHex_ok {s : List Byte} (hl : s.length % 2 = 0) (h : scan isHex .invalidHexInput 2 s = .ok ()) :
    encodeHex s = .ok (s.map fun c => mh (hexVal c)) := by
  simp only [encodeHex, hl, ne_eq, not_true_eq_false, if_false, h]; rfl

theorem validateOtp_error {s : List Byte} {x : CmdError} (h : checkOtp s = .error x) : validateOtp s = .error x := by
  simp only [validateOtp, h]; rfl

theorem extractPid_error {s : List Byte} {x : CmdError} (h : checkOtp s = .error x) : extractPid s = .error x := by
  simp only [extractPid, h]; rfl

theorem validateOtp_ok {s : List Byte} (h : checkOtp s = .ok ()) :
    validateOtp s = .ok (BitVec.ofNat 64 (modhexValue (s.take 12))) := by
  simp only [validateOtp, h]; rfl

theorem extractPid_ok {s : List Byte} (h : checkOtp s = .ok ()) : extractPid s = .ok (s.take 12) := by
  simp only [extractPid, h]; rfl

theorem decodeHex_good : GoodOp decodeHex := by
  intro s x hl h
  cases hv : validate s with
  | error y => rw [decodeHex_error hv] at h; cases h; exact validate_good s _ hl hv
  | ok u => rw [decodeHex_ok hv] at h; cases h

theorem decodeInt_good : GoodOp decodeInt := by
  intro s x hl h
  cases hv : validate s with
  | error y => rw [decodeInt_error hv] at h; cases h; exact validate_good s _ hl hv
  | ok u =>
    by_cases h16 : 16 < s.length
    · rw [decodeInt_long hv h16] at h; cases h; exact goodError_err0 (by decide) (by decide) (by decide)
    · rw [decodeInt_ok hv (by omega)] at h; cases h

theorem decodeBytes_good : GoodOp decodeBytes := by
  intro s x hl h
  cases hv : validate s with
  | error y => rw [decodeBytes_error hv] at h; cases h; exact validate_good s _ hl hv
  | ok u =>
    rcases Nat.mod_two_eq_zero_or_one s.length with h2 | h2
    · rw [decodeBytes_ok hv h2] at h; cases h
    · rw [decodeBytes_odd hv h2] at h; cases h; exact goodError_err0 (by decide) (by decide) (by decide)

theorem encodeHex_good : GoodOp encodeHex := by
  intro s x hl h
  rcases Nat.mod_two_eq_zero_or_one s.length with h2 | h2
  · cases hv : scan isHex .invalidHexInput 2 s with
    | error y =>
      rw [encodeHex_bad h2 hv] at h; cases h
      exact scan_goodError (by decide) (by decide) (by decide) rfl hl hv
    | ok u => rw [encodeHex_ok h2 hv] at h; cases h
  · rw [encodeHex_odd h2] at h; cases h; exact goodError_err0 (by decide) (by decide) (by decide)

theorem checkOtp_good : GoodOp checkOtp := by
  intro s x hl h
  by_cases h44 : s.length = 44
  · simp only [checkOtp, h44, ne_eq, not_true_eq_false, if_false] at h
    exact scan_goodError (by decide) (by decide) (by decide) rfl hl h
  · simp only [checkOtp, ne_eq, h44, not_false_eq_true, if_true] at h
    cases h; exact goodError_err0 (by decide) (by decide) (by decide)

theorem validateOtp_good : GoodOp validateOtp := by
  intro s x hl h
  cases hv : checkOtp s with
  | error y => rw [validateOtp_error hv] at h; cases h; exact checkOtp_good s _ hl hv
  | ok u => rw [validateOtp_ok hv] at h; cases h

theorem extractPid_good : GoodOp extractPid := by
  intro s x hl h
  cases hv : checkOtp s with
  | error y => rw [extractPid_error hv] at h; cases h; exact checkOtp_good s _ hl hv
  | ok u => rw [extractPid_ok hv] at h; cases h

end Sys2Proof.Machine
end

