-- ==== Sys2Proof/Laws/Exec.lean ====
section
/-! SUPPORT. Everything a command's step can do, said once: the ten forms of its next state. Statements over all commands are cases of it. -/

namespace Sys2Proof.Machine

/-- The state after requests to the environment: only the model's counter and the ports have moved. -/
def asked (d : Nat) (p : Ports) (s : State) : State := { s with draws := d, ports := p }

/-- The token after the mutation of R261. -/
def refreshed (ts : BitVec 24) (t : Token) : Token := { t with sessionUse := nextSession t.sessionUse, timestamp := ts }

/-- The forms of a command's next state. -/
inductive Result (i : Instr) (s : State) : State → Prop
  /-- An error: no effect but the completion (R326). -/
  | error (x : CmdError) (d : Nat) (p : Ports) (hx : GoodError x) : Result i s (raise x (asked d p s))
  /-- TOK_GENERATE's failing draw keeps the mutation (R267). -/
  | generateFailed (ts : BitVec 24) (d : Nat) (p : Ports) (hi : i = .tokGenerate) (hv : s.tok.valid = true) :
    Result i s (raise (err0 .randomSourceFailure 0) { asked d p s with tok := refreshed ts s.tok })
  | plain (d : Nat) (p : Ports) (hi : i = .mhValidate ∨ i = .mhValidateLen) : Result i s (complete (asked d p s))
  | bool (b : Bool) (d : Nat) (p : Ports) (hi : i = .mhIsValid ∨ i = .crc16Verify) :
    Result i s (complete (setResBool b (asked d p s)))
  | crc (c : BitVec 16) (d : Nat) (p : Ports) (hi : i = .crc16) : Result i s (complete (setResCrc c (asked d p s)))
  | int (v : BitVec 64) (d : Nat) (p : Ports) (hi : i = .mhDecodeInt ∨ i = .otpValidate) :
    Result i s (complete (setResInt v (asked d p s)))
  | out (r : List Byte) (d : Nat) (p : Ports)
    (hi : i ∈ [Instr.mhDecodeHex, .mhEncodeHex, .mhEncodeBytes, .mhDecodeBytes, .mhRandom, .aesEnc, .tokPubid,
      .tokExportKey, .tokExportPrivid, .otpExtractPid])
    (hr : r.length ≤ 512) : Result i s (complete (writeOut r (asked d p s)))
  | create (tok : Token) (d : Nat) (p : Ports) (hi : i = .tokCreate) (hv : tok.valid = true) (hc : tok.counter = 1)
    (hu : tok.sessionUse = 0) (hp : (fieldBytes tok.publicId).all isMh = true) :
    Result i s (complete { asked d p s with tok := tok })
  | advance (hi : i = .tokAdvance) (hv : s.tok.valid = true) : Result i s (complete (advanceToken () s))
  | generate (ts : BitVec 24) (rnd : List Byte) (d : Nat) (p : Ports) (hi : i = .tokGenerate) (hv : s.tok.valid = true)
    (hr : rnd.length = 2) :
    Result i s (complete (setAudit rnd (writeOut ((refreshed ts s.tok).otp rnd)
      { asked d p s with tok := refreshed ts s.tok })))

/-! ### Lengths -/

@[simp] theorem fitAnswer_length (d n : Nat) (bs : List Byte) : (fitAnswer d n bs).length = n := by simp [fitAnswer]

theorem nextEntropy_length {n : Nat} {s : State} {b : List Byte} (h : nextEntropy n s = some b) : b.length = n := by
  unfold nextEntropy at h
  split at h
  · split at h
    · cases h
    · cases h; simp
  · rw [Option.map_eq_some_iff] at h
    obtain ⟨a, -, rfl⟩ := h
    simp

theorem fitAnswer_self (d : Nat) (a : List Byte) : fitAnswer d a.length a = a := by
  apply List.ext_getElem (by simp [fitAnswer])
  intro i h1 h2
  simp [fitAnswer, List.getD, h2]

/-- A scripted answer of the length asked for is the answer. -/
theorem nextEntropy_scripted {s : State} {a : List Byte} {es : List (Option (List Byte))} {n : Nat}
    (h : s.ports.entropy = some a :: es) (hn : a.length = n) : nextEntropy n s = some a := by
  subst hn
  simp [nextEntropy, h, fitAnswer_self]

/-- A scripted failure is the answer. -/
theorem nextEntropy_fail {s : State} {es : List (Option (List Byte))} {n : Nat} (h : s.ports.entropy = none :: es) :
    nextEntropy n s = none := by
  simp [nextEntropy, h]

@[simp] theorem grid_length (f : Nat → Nat → Byte) : (grid f).length = 16 := rfl

@[simp] theorem xorBytes_length (a b : List Byte) : (xorBytes a b).length = min a.length b.length := by
  simp [xorBytes]

@[simp] theorem shiftRows_length (s : List Byte) : (shiftRows s).length = 16 := rfl

@[simp] theorem mixColumns_length (s : List Byte) : (mixColumns s).length = 16 := rfl

theorem keyMix_length (r : Byte) (t : List Byte) (h : t.length = 4) : (keyMix r t).length = 4 := by
  obtain ⟨a, b, c, d, rfl⟩ : ∃ a b c d, t = [a, b, c, d] := by
    match t, h with
    | [a, b, c, d], _ => exact ⟨a, b, c, d, rfl⟩
  rfl

theorem nextRoundKey_length (r : Byte) (k : List Byte) (h : k.length = 16) : (nextRoundKey r k).length = 16 := by
  simp [nextRoundKey, h, keyMix_length]

theorem roundKeysFrom_length (rs : List Byte) (k : List Byte) (h : k.length = 16) :
    ∀ x ∈ roundKeysFrom k rs, x.length = 16 := by
  induction rs generalizing k with
  | nil => simp [roundKeysFrom]
  | cons r rs ih =>
    intro x hx
    rw [roundKeysFrom, List.mem_cons] at hx
    obtain rfl | hx := hx
    · exact nextRoundKey_length r k h
    · exact ih _ (nextRoundKey_length r k h) x hx

theorem cipherRounds_length (ks : List (List Byte)) (s : List Byte) (hs : s.length = 16)
    (hk : ∀ k ∈ ks, k.length = 16) : (cipherRounds s ks).length = 16 := by
  induction ks generalizing s with
  | nil => exact hs
  | cons k ks ih =>
    cases ks with
    | nil => simp [cipherRounds, hk k (by simp)]
    | cons k' ks =>
      rw [cipherRounds]
      · exact ih _ (by simp [hk k (by simp)]) fun x hx => hk x (by simp [hx])
      · simp

theorem aes128_length (key block : List Byte) (hk : key.length = 16) (hb : block.length = 16) :
    (aes128 key block).length = 16 :=
  cipherRounds_length _ _ (by simp [hk, hb]) (roundKeysFrom_length _ _ hk)

theorem record_length (priv : List Byte) (c : BitVec 16) (ts : BitVec 24) (su : BitVec 8) (rnd : List Byte)
    (hp : priv.length = 6) (hr : rnd.length = 2) : (record priv c ts su rnd).length = 16 := by
  simp [record, recordBody, crcField, hp, hr]

theorem otp_length (t : Token) (rnd : List Byte) (hr : rnd.length = 2) : (t.otp rnd).length = 44 := by
  simp [Token.otp, aes128_length, record_length, hr]

/-! ### The forms -/

theorem runString_result {α : Type} {i : Instr} {f : List Byte → Except CmdError α} {w : α → State → State} {s : State}
    (hf : GoodOp f)
    (hok : ∀ a, inLength s ≤ 256 → f (inputString s) = .ok a → Result i s (complete (w a (tick s)))) :
    Result i s (runString f w s) := by
  obtain ⟨-, h⟩ | ⟨hl, x, hx, h⟩ | ⟨hl, a, ha, h⟩ := runString_cases f w s
  · rw [h]
    exact .error (err0 .argumentRange 1) s.draws s.ports (goodError_err0 (by decide) (by decide) (by decide))
  · rw [h]
    exact .error x (s.draws + 1) s.ports (hf _ x (by simpa using hl) hx)
  · rw [h]; exact hok a hl ha

theorem runString_out_result {i : Instr} {f : List Byte → Except CmdError (List Byte)} {s : State} (hf : GoodOp f)
    (hi : i ∈ [Instr.mhDecodeHex, .mhEncodeHex, .mhEncodeBytes, .mhDecodeBytes, .mhRandom, .aesEnc, .tokPubid,
      .tokExportKey, .tokExportPrivid, .otpExtractPid])
    (hlen : ∀ S r, f S = .ok r → r.length ≤ 2 * S.length) : Result i s (runString f writeOut s) :=
  runString_result hf fun a hl ha =>
    .out a (s.draws + 1) s.ports hi (by have := hlen _ _ ha; rw [inputString_length] at this; omega)

theorem goodOp_ok {α : Type} (g : List Byte → α) : GoodOp (fun s => (.ok (g s) : Except CmdError α)) := by
  intro s x _ h; cases h

theorem decodeHex_length {S r : List Byte} (h : decodeHex S = .ok r) : r.length ≤ 2 * S.length := by
  cases hv : validate S with
  | error y => rw [decodeHex_error hv] at h; cases h
  | ok u => rw [decodeHex_ok hv] at h; cases h; simp; omega

theorem encodeHex_length {S r : List Byte} (h : encodeHex S = .ok r) : r.length ≤ 2 * S.length := by
  rcases Nat.mod_two_eq_zero_or_one S.length with h2 | h2
  · cases hv : scan isHex .invalidHexInput 2 S with
    | error y => rw [encodeHex_bad h2 hv] at h; cases h
    | ok u => rw [encodeHex_ok h2 hv] at h; cases h; simp; omega
  · rw [encodeHex_odd h2] at h; cases h

theorem encodeBytes_length {S r : List Byte} (h : encodeBytes S = .ok r) : r.length ≤ 2 * S.length := by
  cases h; simp

theorem decodeBytes_length {S r : List Byte} (h : decodeBytes S = .ok r) : r.length ≤ 2 * S.length := by
  cases hv : validate S with
  | error y => rw [decodeBytes_error hv] at h; cases h
  | ok u =>
    rcases Nat.mod_two_eq_zero_or_one S.length with h2 | h2
    · rw [decodeBytes_ok hv h2] at h; cases h; rw [pairBytes_length]; omega
    · rw [decodeBytes_odd hv h2] at h; cases h

theorem extractPid_length {S r : List Byte} (h : extractPid S = .ok r) : r.length ≤ 2 * S.length := by
  cases hv : checkOtp S with
  | error y => rw [extractPid_error hv] at h; cases h
  | ok u => rw [extractPid_ok hv] at h; cases h; simp; omega

theorem mhRandom_result (s : State) : Result .mhRandom s (mhRandom s) := by
  unfold mhRandom checkRandomLen
  by_cases h1 : Config.outSize < argLength s
  · simp only [h1, if_true]
    exact .error _ s.draws s.ports (goodError_err0 (by decide) (by decide) (by decide))
  · by_cases h2 : argLength s % 2 ≠ 0
    · simp only [h1, h2, if_false, if_true, ne_eq, not_false_eq_true]
      exact .error _ s.draws s.ports (goodError_err0 (by decide) (by decide) (by decide))
    · simp only [h1, h2, if_false]
      by_cases h3 : argLength s = 0
      · simp only [h3, if_true]
        exact .out [] s.draws s.ports (by decide) (by simp)
      · simp only [h3, if_false]
        cases hb : nextEntropy (argLength s / 2) s with
        | none =>
          exact .error _ _ (popEntropy s).ports (goodError_err0 (by decide) (by decide) (by decide))
        | some b =>
          refine .out (mhBytes b) _ (popEntropy s).ports (by decide) ?_
          rw [mhBytes_length, nextEntropy_length hb]
          simp only [Config.outSize] at h1
          omega

theorem aesEnc_result (s : State) : Result .aesEnc s (aesEnc s) := by
  unfold aesEnc
  cases hv : s.tok.valid with
  | false =>
    rw [checkToken_error hv]
    exact .error _ s.draws s.ports (goodError_err0 (by decide) (by decide) (by decide))
  | true =>
    rw [checkToken_ok hv]
    unfold checkBlockLen
    by_cases h : inLength s ≠ 16
    · simp only [h, if_true, ne_eq, not_false_eq_true]
      exact .error _ s.draws s.ports (goodError_err0 (by decide) (by decide) (by decide))
    · simp only [h, if_false]
      exact .out _ (s.draws + 1) s.ports (by decide) (by rw [aes128_length] <;> simp)

theorem exportField_result {i : Instr} (s : State) (l : List Byte) (hl : l.length ≤ 512)
    (hi : i ∈ [Instr.mhDecodeHex, .mhEncodeHex, .mhEncodeBytes, .mhDecodeBytes, .mhRandom, .aesEnc, .tokPubid,
      .tokExportKey, .tokExportPrivid, .otpExtractPid]) : Result i s (exportField l s) := by
  unfold exportField
  cases hv : s.tok.valid with
  | false =>
    rw [checkToken_error hv]
    exact .error _ s.draws s.ports (goodError_err0 (by decide) (by decide) (by decide))
  | true =>
    rw [checkToken_ok hv]
    exact .out l s.draws s.ports hi hl

/-- The state with the ports of another. -/
theorem afterField_asked (p : Bool) (d : Nat) (q : Ports) (s : State) :
    ∃ d' q', afterField p (asked d q s) = asked d' q' s := by
  cases p
  · exact ⟨_, _, rfl⟩
  · exact ⟨_, _, rfl⟩

theorem checkPublicId_isMh {p : List Byte} (h : checkPublicId p = .ok ()) : p.length = 12 ∧ p.all isMh = true := by
  unfold checkPublicId at h
  split at h
  · cases h
  · rename_i hl
    obtain ⟨-, hm⟩ | ⟨i, -, hm⟩ := scan_cases isMh .invalidPublicId 2 p
    · exact ⟨not_not.mp hl, by simpa using hm⟩
    · rw [hm] at h; cases h

/-- A supplied or drawn public_id is 12 characters of the alphabet. -/
theorem publicIdOrDraw_isMh {p : Bool} {l b : List Byte} {s : State} (hl : p = true → checkPublicId l = .ok ())
    (h : publicIdOrDraw p l s = some b) : b.length = 12 ∧ b.all isMh = true := by
  cases p with
  | true => cases h; exact checkPublicId_isMh (hl rfl)
  | false =>
    simp only [publicIdOrDraw, Bool.false_eq_true, if_false, Option.map_eq_some_iff] at h
    obtain ⟨a, ha, rfl⟩ := h
    exact ⟨by rw [mhBytes_length, nextEntropy_length ha], mhBytes_isMh a⟩

theorem create_form (s : State) (pub priv key : List Byte) (seed : BitVec 16) (ts : BitVec 24) (d : Nat) (p : Ports)
    (hlen : pub.length = 12) (hmh : pub.all isMh = true) :
    Result .tokCreate s (complete { asked d p s with tok := newToken pub priv key seed ts }) := by
  refine .create _ d p rfl rfl rfl rfl ?_
  simp only [newToken, fieldBytes_packBytes 12 pub hlen, hmh]

theorem drawAndCommit_result (s : State) (c : Cfg) (f : Supplied) (d : Nat) (q : Ports)
    (hf : c.pubP = true → checkPublicId f.pub = .ok ()) : Result .tokCreate s (drawAndCommit c f (asked d q s)) := by
  obtain ⟨d1, q1, h1⟩ := afterField_asked c.pubP d q s
  obtain ⟨d2, q2, h2⟩ := afterField_asked c.privP d1 q1 s
  obtain ⟨d3, q3, h3⟩ := afterField_asked c.keyP d2 q2 s
  have hE : GoodError (err0 .randomSourceFailure 0) := goodError_err0 (by decide) (by decide) (by decide)
  simp only [drawAndCommit, h1, h2, h3]
  cases hp : publicIdOrDraw c.pubP f.pub (asked d q s) with
  | none => exact .error _ _ _ hE
  | some pub =>
    obtain ⟨hlen, hmh⟩ := publicIdOrDraw_isMh hf hp
    cases fieldOrDraw c.privP f.priv 6 (asked d1 q1 s) with
    | none => exact .error _ _ _ hE
    | some priv =>
      cases fieldOrDraw c.keyP f.key 16 (asked d2 q2 s) with
      | none => exact .error _ _ _ hE
      | some key =>
        cases nextEntropy 2 (asked d3 q3 s) with
        | none => exact .error _ _ (popEntropy (asked d3 q3 s)).ports hE
        | some sb =>
          have hs : popTime (popEntropy (asked d3 q3 s)) =
              asked (d3 + 1 + 1) ⟨q3.entropy.tail, q3.time.tail, q3.latency⟩ s := by
            simp only [popTime, popEntropy, asked, tick]
          simp only [hs]
          generalize nextStamp (popEntropy (asked d3 q3 s)) = ts
          exact create_form s pub priv key (seedOf sb) ts _ _ hlen hmh

/-- Phase 1 fails with an error of the tables, or every check of a field that is present succeeds. -/
theorem checkSupplied_cases (c : Cfg) (f : Supplied) :
    (∃ x, checkSupplied c f = .error x ∧ GoodError x) ∨
      (checkSupplied c f = .ok () ∧ (c.pubP = true → checkPublicId f.pub = .ok ()) ∧
        (c.privP = true → checkPrivateId f.priv = .ok ()) ∧ (c.keyP = true → checkSecretKey f.key = .ok ())) := by
  have hpub : ∀ x, checkPublicId f.pub = .error x → GoodError x := by
    intro x h
    unfold checkPublicId at h
    split at h
    · cases h; exact goodError_err0 (by decide) (by decide) (by decide)
    · exact scan_goodError (by decide) (by decide) (by decide) rfl (by omega) h
  have hpriv : ∀ x, checkPrivateId f.priv = .error x → GoodError x := by
    intro x h
    unfold checkPrivateId at h
    split at h
    · cases h; exact goodError_err0 (by decide) (by decide) (by decide)
    · cases h
  have hkey : ∀ x, checkSecretKey f.key = .error x → GoodError x := by
    intro x h
    unfold checkSecretKey at h
    split at h
    · cases h; exact goodError_err0 (by decide) (by decide) (by decide)
    · cases h
  have split3 : ∀ (p : Bool) (r : Except CmdError Unit), (∀ x, r = .error x → GoodError x) →
      (∃ x, whenPresent p r = .error x ∧ GoodError x) ∨ (whenPresent p r = .ok () ∧ (p = true → r = .ok ())) := by
    intro p r hr
    cases p with
    | false => exact .inr ⟨rfl, fun h => nomatch h⟩
    | true =>
      cases r with
      | error x => exact .inl ⟨x, rfl, hr x rfl⟩
      | ok u => exact .inr ⟨rfl, fun _ => rfl⟩
  unfold checkSupplied
  obtain ⟨x, hx, hg⟩ | ⟨h1, h1'⟩ := split3 c.pubP _ hpub
  · exact .inl ⟨x, by rw [hx]; rfl, hg⟩
  · obtain ⟨x, hx, hg⟩ | ⟨h2, h2'⟩ := split3 c.privP _ hpriv
    · exact .inl ⟨x, by rw [h1, hx]; rfl, hg⟩
    · obtain ⟨x, hx, hg⟩ | ⟨h3, h3'⟩ := split3 c.keyP _ hkey
      · exact .inl ⟨x, by rw [h1, h2, hx]; rfl, hg⟩
      · exact .inr ⟨by rw [h1, h2, h3]; rfl, h1', h2', h3'⟩

theorem tokCreate_result (s : State) : Result .tokCreate s (tokCreate s) := by
  unfold tokCreate checkTotal
  by_cases h : Config.inSize < s.cfg.total
  · simp only [h, if_true]
    exact .error _ s.draws s.ports (goodError_err0 (by decide) (by decide) (by decide))
  · simp only [h, if_false]
    obtain ⟨x, hx, hg⟩ | ⟨hok, hp, -, -⟩ := checkSupplied_cases s.cfg (splitSupplied s.cfg (inBytes s s.cfg.total))
    · rw [hx]; exact .error x (s.draws + 1) s.ports hg
    · rw [hok]; exact drawAndCommit_result s s.cfg _ (s.draws + 1) s.ports hp

theorem tokGenerate_result (s : State) : Result .tokGenerate s (tokGenerate s) := by
  unfold tokGenerate
  cases hv : s.tok.valid with
  | false =>
    rw [checkToken_error hv]
    exact .error _ s.draws s.ports (goodError_err0 (by decide) (by decide) (by decide))
  | true =>
    rw [checkToken_ok hv]
    have hs : popEntropy (refresh s) =
        { asked (s.draws + 1 + 1) ⟨s.ports.entropy.tail, s.ports.time.tail, s.ports.latency⟩ s with
          tok := refreshed (nextStamp s) s.tok } := rfl
    have ht : (refresh s).tok = refreshed (nextStamp s) s.tok := rfl
    simp only [hs, ht]
    generalize nextStamp s = ts
    cases hn : nextEntropy 2 (refresh s) with
    | none => exact .generateFailed ts _ _ rfl hv
    | some rnd => exact .generate ts rnd _ _ rfl hv (nextEntropy_length hn)

/-- Every command gives a next state, and it has one of the forms. -/
theorem exec_result (i : Instr) (s : State) : ∃ t, exec i s = .next t ∧ Result i s t := by
  cases i with
  | mhIsValid => exact ⟨_, rfl, runString_result (goodOp_ok _) fun a _ _ => .bool a _ s.ports (.inl rfl)⟩
  | mhValidate => exact ⟨_, rfl, runString_result validate_good fun a _ _ => .plain _ s.ports (.inl rfl)⟩
  | mhValidateLen => exact ⟨_, rfl, runString_result (validateLen_good _) fun a _ _ => .plain _ s.ports (.inr rfl)⟩
  | mhDecodeHex => exact ⟨_, rfl, runString_out_result decodeHex_good (by decide) fun _ _ => decodeHex_length⟩
  | mhDecodeInt => exact ⟨_, rfl, runString_result decodeInt_good fun a _ _ => .int a _ s.ports (.inl rfl)⟩
  | mhEncodeHex => exact ⟨_, rfl, runString_out_result encodeHex_good (by decide) fun _ _ => encodeHex_length⟩
  | mhEncodeBytes => exact ⟨_, rfl, runString_out_result (goodOp_ok _) (by decide) fun _ _ => encodeBytes_length⟩
  | mhDecodeBytes => exact ⟨_, rfl, runString_out_result decodeBytes_good (by decide) fun _ _ => decodeBytes_length⟩
  | mhRandom => exact ⟨_, rfl, mhRandom_result s⟩
  | crc16 => exact ⟨_, rfl, runString_result (goodOp_ok _) fun a _ _ => .crc a _ s.ports rfl⟩
  | crc16Verify => exact ⟨_, rfl, runString_result (goodOp_ok _) fun a _ _ => .bool a _ s.ports (.inr rfl)⟩
  | aesEnc => exact ⟨_, rfl, aesEnc_result s⟩
  | tokCreate => exact ⟨_, rfl, tokCreate_result s⟩
  | tokGenerate => exact ⟨_, rfl, tokGenerate_result s⟩
  | tokAdvance =>
    refine ⟨_, rfl, ?_⟩
    cases hv : s.tok.valid with
    | false =>
      rw [checkToken_error hv]
      exact .error _ s.draws s.ports (goodError_err0 (by decide) (by decide) (by decide))
    | true => rw [checkToken_ok hv]; exact .advance rfl hv
  | tokPubid => exact ⟨_, rfl, exportField_result s _ (by simp) (by decide)⟩
  | tokExportKey => exact ⟨_, rfl, exportField_result s _ (by simp) (by decide)⟩
  | tokExportPrivid => exact ⟨_, rfl, exportField_result s _ (by simp) (by decide)⟩
  | otpValidate => exact ⟨_, rfl, runString_result validateOtp_good fun a _ _ => .int a _ s.ports (.inr rfl)⟩
  | otpExtractPid => exact ⟨_, rfl, runString_out_result extractPid_good (by decide) fun _ _ => extractPid_length⟩

end Sys2Proof.Machine
end

