-- ==== Sys2Proof/Laws/Aes.lean ====
section
/-! SUPPORT. The laws of the cipher's operations: cells, linearity of xtime, and that no operation of a round loses anything. -/

namespace Sys2Proof.Machine

/-! ### Cells (R201) -/

theorem cell_grid (f : Nat → Nat → Byte) {r c : Nat} (hr : r < 4) (hc : c < 4) : cell (grid f) r c = f r c := by
  interval_cases r <;> interval_cases c <;> rfl

/-- Two blocks with the same cells are the same. -/
theorem block_ext {s t : List Byte} (hs : s.length = 16) (ht : t.length = 16)
    (h : ∀ r c, r < 4 → c < 4 → cell s r c = cell t r c) : s = t := by
  apply List.ext_getElem (by rw [hs, ht])
  intro i h1 h2
  have := h (i % 4) (i / 4) (by omega) (by omega)
  simpa [cell, List.getD, h1, h2, show i % 4 + 4 * (i / 4) = i by omega] using this

/-! ### Round operations (R203 to R207) -/

theorem sbox_injective : ∀ a b : Byte, sbox a = sbox b → a = b := by
  have h : ∀ a : Byte, BitVec.ofNat 8 (sboxTable.idxOf (sbox a)) = a := by decide +kernel
  intro a b hab
  rw [← h a, hab, h b]

/-- xtime is linear (R202). -/
theorem xtime_xor (a b : Byte) : xtime (a ^^^ b) = xtime a ^^^ xtime b := by
  have key : ∀ x y : Bool, (if (x ^^ y) then (0x1B:Byte) else 0) = (if x then 0x1B else 0) ^^^ (if y then 0x1B else 0) := by decide
  unfold xtime
  rw [BitVec.getLsbD_xor, key, BitVec.shiftLeft_xor_distrib]
  ac_rfl

/-- The four rows of a mixed column. -/
def mixColumn (p : Byte × Byte × Byte × Byte) : Byte × Byte × Byte × Byte :=
  (mixRow 0 p.1 p.2.1 p.2.2.1 p.2.2.2, mixRow 1 p.1 p.2.1 p.2.2.1 p.2.2.2, mixRow 2 p.1 p.2.1 p.2.2.1 p.2.2.2,
    mixRow 3 p.1 p.2.1 p.2.2.1 p.2.2.2)

/-- Mixing a column twice. -/
theorem mixColumn_twice (p : Byte × Byte × Byte × Byte) : mixColumn (mixColumn p) =
    (xtime (xtime p.1) ^^^ p.1 ^^^ xtime (xtime p.2.2.1), xtime (xtime p.2.1) ^^^ p.2.1 ^^^ xtime (xtime p.2.2.2),
      xtime (xtime p.2.2.1) ^^^ p.2.2.1 ^^^ xtime (xtime p.1), xtime (xtime p.2.2.2) ^^^ p.2.2.2 ^^^ xtime (xtime p.2.1)) := by
  obtain ⟨x,y,z,u⟩ := p
  simp only [mixColumn, mixRow, times3, xtime_xor, Prod.mk.injEq]
  generalize xtime x = x1; generalize xtime y = y1; generalize xtime z = z1; generalize xtime u = u1
  generalize xtime x1 = x2; generalize xtime y1 = y2; generalize xtime z1 = z2; generalize xtime u1 = u2
  refine ⟨?_,?_,?_,?_⟩ <;>
  · ext i hi
    simp only [BitVec.getElem_xor]
    generalize x[i] = x0; generalize y[i] = y0; generalize z[i] = z0; generalize u[i] = u0
    generalize x1[i] = a; generalize y1[i] = b; generalize z1[i] = c; generalize u1[i] = d
    generalize x2[i] = e; generalize y2[i] = f; generalize z2[i] = g; generalize u2[i] = h
    revert x0 y0 z0 u0 a b c d e f g h
    decide

/-- Mixing a column four times gives it back. -/
theorem mixColumn_four (p : Byte × Byte × Byte × Byte) : mixColumn (mixColumn (mixColumn (mixColumn p))) = p := by
  rw [mixColumn_twice (mixColumn (mixColumn p)), mixColumn_twice]
  obtain ⟨x,y,z,u⟩ := p
  simp only [xtime_xor, Prod.mk.injEq]
  generalize xtime x = x1; generalize xtime y = y1; generalize xtime z = z1; generalize xtime u = u1
  generalize xtime x1 = x2; generalize xtime y1 = y2; generalize xtime z1 = z2; generalize xtime u1 = u2
  generalize xtime x2 = x3; generalize xtime y2 = y3; generalize xtime z2 = z3; generalize xtime u2 = u3
  generalize xtime x3 = x4; generalize xtime y3 = y4; generalize xtime z3 = z4; generalize xtime u3 = u4
  refine ⟨?_,?_,?_,?_⟩ <;>
  · ext i hi
    simp only [BitVec.getElem_xor]
    generalize x[i] = x0; generalize y[i] = y0; generalize z[i] = z0; generalize u[i] = u0
    generalize x2[i] = e; generalize y2[i] = f; generalize z2[i] = g; generalize u2[i] = h
    generalize x4[i] = e'; generalize y4[i] = f'; generalize z4[i] = g'; generalize u4[i] = h'
    simp [Bool.xor_comm, Bool.xor_left_comm]

theorem mixColumn_injective {p q : Byte × Byte × Byte × Byte} (h : mixColumn p = mixColumn q) : p = q := by
  rw [← mixColumn_four p, h, mixColumn_four q]

theorem mixColumns_injective {s t : List Byte} (hs : s.length = 16) (ht : t.length = 16)
    (h : mixColumns s = mixColumns t) : s = t := by
  apply block_ext hs ht
  intro r c hr hc
  have e : ∀ r, r < 4 → mixRow r (cell s 0 c) (cell s 1 c) (cell s 2 c) (cell s 3 c) =
      mixRow r (cell t 0 c) (cell t 1 c) (cell t 2 c) (cell t 3 c) := by
    intro r hr
    have := congrArg (fun x => cell x r c) h
    simp only [mixColumns, cell_grid _ hr hc] at this
    exact this
  have hp : mixColumn (cell s 0 c, cell s 1 c, cell s 2 c, cell s 3 c) =
      mixColumn (cell t 0 c, cell t 1 c, cell t 2 c, cell t 3 c) := by
    simp only [mixColumn, e 0 (by decide), e 1 (by decide), e 2 (by decide), e 3 (by decide)]
  have := mixColumn_injective hp
  simp only [Prod.mk.injEq] at this
  obtain ⟨h0, h1, h2, h3⟩ := this
  interval_cases r <;> assumption

theorem shiftRows_injective {s t : List Byte} (hs : s.length = 16) (ht : t.length = 16)
    (h : shiftRows s = shiftRows t) : s = t := by
  apply block_ext hs ht
  intro r c hr hc
  have := congrArg (fun x => cell x r ((c + (4 - r)) % 4)) h
  simp only [shiftRows, cell_grid _ hr (show (c + (4 - r)) % 4 < 4 by omega)] at this
  rwa [show ((c + (4 - r)) % 4 + r) % 4 = c by omega] at this

theorem subBytes_injective {s t : List Byte} (h : subBytes s = subBytes t) : s = t :=
  List.map_injective_iff.mpr (fun a b => sbox_injective a b) h

theorem xorBytes_injective {s t k : List Byte} (hs : s.length = k.length) (ht : t.length = k.length)
    (h : xorBytes s k = xorBytes t k) : s = t := by
  apply List.ext_getElem (by rw [hs, ht])
  intro i h1 h2
  have := congrArg (fun x => x[i]?) h
  have hk : i < k.length := by omega
  simp [xorBytes, h1, h2, hk] at this
  exact this

end Sys2Proof.Machine
end

