-- ==== Sys2Proof/Laws/Bits.lean ====
section
/-! SUPPORT. Words, bytes and fields as numbers. -/

namespace Sys2Proof.Machine

/-- Concatenation as a number. -/
theorem toNat_append_eq {m n : Nat} (x : BitVec m) (y : BitVec n) :
    (x ++ y).toNat = x.toNat * 2 ^ n + y.toNat := by
  rw [BitVec.toNat_append, ← Nat.shiftLeft_add_eq_or_of_lt y.isLt, Nat.shiftLeft_eq]

/-- A field as a number. -/
theorem toNat_extract_eq {n : Nat} (x : BitVec n) (lo len : Nat) :
    (x.extractLsb' lo len).toNat = x.toNat / 2 ^ lo % 2 ^ len := by
  simp [Nat.shiftRight_eq_div_pow]

/-- Four bytes as a number, the first least significant. -/
theorem wordOfBytes_toNat (a b c d : Byte) :
    (wordOfBytes a b c d).toNat = a.toNat + 2 ^ 8 * b.toNat + 2 ^ 16 * c.toNat + 2 ^ 24 * d.toNat := by
  have h : (wordOfBytes a b c d).toNat = ((d.toNat * 2 ^ 8 + c.toNat) * 2 ^ 8 + b.toNat) * 2 ^ 8 + a.toNat := by
    unfold wordOfBytes
    rw [← toNat_append_eq d c, ← toNat_append_eq (d ++ c) b]
    exact toNat_append_eq (d ++ c ++ b) a
  omega

theorem bytesOfWord_wordOfBytes (a b c d : Byte) : bytesOfWord (wordOfBytes a b c d) = [a, b, c, d] := by
  have ha := a.isLt; have hb := b.isLt; have hc := c.isLt; have hd := d.isLt
  have h := wordOfBytes_toNat a b c d
  unfold bytesOfWord
  have e0 : (wordOfBytes a b c d).extractLsb' 0 8 = a := BitVec.eq_of_toNat_eq (by rw [toNat_extract_eq, h]; omega)
  have e1 : (wordOfBytes a b c d).extractLsb' 8 8 = b := BitVec.eq_of_toNat_eq (by rw [toNat_extract_eq, h]; omega)
  have e2 : (wordOfBytes a b c d).extractLsb' 16 8 = c := BitVec.eq_of_toNat_eq (by rw [toNat_extract_eq, h]; omega)
  have e3 : (wordOfBytes a b c d).extractLsb' 24 8 = d := BitVec.eq_of_toNat_eq (by rw [toNat_extract_eq, h]; omega)
  rw [e0, e1, e2, e3]

/-- A word's bytes make the word. -/
theorem wordOfBytes_bytesOfWord (w : Word) :
    wordOfBytes (w.extractLsb' 0 8) (w.extractLsb' 8 8) (w.extractLsb' 16 8) (w.extractLsb' 24 8) = w := by
  apply BitVec.eq_of_toNat_eq
  have hw := w.isLt
  rw [wordOfBytes_toNat, toNat_extract_eq, toNat_extract_eq, toNat_extract_eq, toNat_extract_eq]
  omega

/-- The fields of a command word make the word (R100). -/
theorem word_of_fields (w : Word) :
    w.toNat = (rsvdField w).toNat * 256 + (famField w).toNat * 16 + (fnField w).toNat := by
  have hw := w.isLt
  simp only [rsvdField, famField, fnField, toNat_extract_eq]
  omega

end Sys2Proof.Machine
end

