-- ==== Sys2Proof/Laws/PerInstr.lean ====
section
/-! SUPPORT. The per-instruction family TableWord: each command is well formed, its word has RSVD 0 and the command's OP in FAM and FN, and the table's word decodes to it (R100, R102). -/

namespace Sys2Proof.Laws

/-- What R100 and R102 say of a command's word: RSVD is 0, FAM and FN make OP, the word is OP zero-extended, and the table's word of 32 bits decodes to the command. -/
def TableWord.Statement (i : Instr) : Prop :=
  i.wf = true ∧ wordWf (encodeWord i) = true ∧ rsvdField (encodeWord i) = 0 ∧
    (famField (encodeWord i)).toNat * 16 + (fnField (encodeWord i)).toNat = i.op.toNat ∧
    (encodeWord i).toNat = i.op.toNat ∧ decodeTableWord 32 i.op.toNat = some i

theorem TableWord.mhIsValid : TableWord.Statement .mhIsValid := ⟨rfl, rfl, rfl, rfl, rfl, rfl⟩

theorem TableWord.mhValidate : TableWord.Statement .mhValidate := ⟨rfl, rfl, rfl, rfl, rfl, rfl⟩

theorem TableWord.mhValidateLen : TableWord.Statement .mhValidateLen := ⟨rfl, rfl, rfl, rfl, rfl, rfl⟩

theorem TableWord.mhDecodeHex : TableWord.Statement .mhDecodeHex := ⟨rfl, rfl, rfl, rfl, rfl, rfl⟩

theorem TableWord.mhDecodeInt : TableWord.Statement .mhDecodeInt := ⟨rfl, rfl, rfl, rfl, rfl, rfl⟩

theorem TableWord.mhEncodeHex : TableWord.Statement .mhEncodeHex := ⟨rfl, rfl, rfl, rfl, rfl, rfl⟩

theorem TableWord.mhEncodeBytes : TableWord.Statement .mhEncodeBytes := ⟨rfl, rfl, rfl, rfl, rfl, rfl⟩

theorem TableWord.mhDecodeBytes : TableWord.Statement .mhDecodeBytes := ⟨rfl, rfl, rfl, rfl, rfl, rfl⟩

theorem TableWord.mhRandom : TableWord.Statement .mhRandom := ⟨rfl, rfl, rfl, rfl, rfl, rfl⟩

theorem TableWord.crc16 : TableWord.Statement .crc16 := ⟨rfl, rfl, rfl, rfl, rfl, rfl⟩

theorem TableWord.crc16Verify : TableWord.Statement .crc16Verify := ⟨rfl, rfl, rfl, rfl, rfl, rfl⟩

theorem TableWord.aesEnc : TableWord.Statement .aesEnc := ⟨rfl, rfl, rfl, rfl, rfl, rfl⟩

theorem TableWord.tokCreate : TableWord.Statement .tokCreate := ⟨rfl, rfl, rfl, rfl, rfl, rfl⟩

theorem TableWord.tokGenerate : TableWord.Statement .tokGenerate := ⟨rfl, rfl, rfl, rfl, rfl, rfl⟩

theorem TableWord.tokAdvance : TableWord.Statement .tokAdvance := ⟨rfl, rfl, rfl, rfl, rfl, rfl⟩

theorem TableWord.tokPubid : TableWord.Statement .tokPubid := ⟨rfl, rfl, rfl, rfl, rfl, rfl⟩

theorem TableWord.tokExportKey : TableWord.Statement .tokExportKey := ⟨rfl, rfl, rfl, rfl, rfl, rfl⟩

theorem TableWord.tokExportPrivid : TableWord.Statement .tokExportPrivid := ⟨rfl, rfl, rfl, rfl, rfl, rfl⟩

theorem TableWord.otpValidate : TableWord.Statement .otpValidate := ⟨rfl, rfl, rfl, rfl, rfl, rfl⟩

theorem TableWord.otpExtractPid : TableWord.Statement .otpExtractPid := ⟨rfl, rfl, rfl, rfl, rfl, rfl⟩

end Sys2Proof.Laws
end

