-- ==== Sys2Proof/Laws/Step.lean ====
section
/-! SUPPORT. Everything a step can do, said once: which agent moves, the forms of a bus write, of a host step and of the block's step. -/

namespace Sys2Proof.Machine

/-! ### Which agent moves (R17, R324) -/

theorem step_idle {s : State} (h : s.pend = none) : step s = hostStep s := by
  simp [step, machineStep, h]

theorem step_block {s : State} {w : Word} (h : s.pend = some w) (hb : blockNext s = true) : step s = blockStep w s := by
  simp [step, machineStep, h, hb]

theorem step_waiting {s : State} {w : Word} (h : s.pend = some w) (hb : blockNext s = false) : step s = hostStep s := by
  simp [step, machineStep, h, hb]

/-- A step is the block's on a pending command, or the host's. -/
theorem step_agent (s : State) :
    (∃ w, s.pend = some w ∧ blockNext s = true ∧ step s = blockStep w s) ∨
      ((s.pend = none ∨ blockNext s = false) ∧ step s = hostStep s) := by
  cases hp : s.pend with
  | none => exact .inr ⟨.inl rfl, step_idle hp⟩
  | some w =>
    cases hb : blockNext s with
    | true => exact .inl ⟨w, rfl, rfl, step_block hp hb⟩
    | false => exact .inr ⟨.inr rfl, step_waiting hp hb⟩

/-! ### The decoder and the encoder (R102) -/

theorem decodeWord_encodeWord (i : Instr) : decodeWord (encodeWord i) = .ok i := by cases i <;> rfl

theorem opCommand_op (fam fn : Nibble) (i : Instr) (h : opCommand fam fn = some i) :
    fam.toNat * 16 + fn.toNat = (encodeWord i).toNat := by
  have key : ∀ fam fn : Nibble, (match opCommand fam fn with
      | some i => fam.toNat * 16 + fn.toNat == (encodeWord i).toNat
      | none => true) = true := by decide +kernel
  have := key fam fn
  rw [h] at this
  simpa using this

/-- A word that decodes to a command is its encoding. -/
theorem eq_encodeWord_of_decodeWord {w : Word} {i : Instr} (h : decodeWord w = .ok i) : w = encodeWord i := by
  unfold decodeWord at h
  split at h
  · cases h
  · rename_i h0
    split at h
    · rename_i j hj
      cases h
      apply BitVec.eq_of_toNat_eq
      rw [word_of_fields w, not_not.mp h0, ← opCommand_op _ _ _ hj]
      simp
    · cases h

/-! ### The block's step (R104, R324) -/

theorem illegalCommand_good : GoodError illegalCommand := goodError_err0 (by decide) (by decide) (by decide)

/-- The block's step gives a next state of the forms of `Result`, for the command it decodes to or for an illegal word. -/
theorem blockStep_result (w : Word) (s : State) : ∃ i t, blockStep w s = .next t ∧ Result i s t ∧
    (w = encodeWord i ∨ t = raise illegalCommand s) := by
  unfold blockStep
  cases hd : decodeWord w with
  | error e => exact ⟨.mhIsValid, _, rfl, .error _ s.draws s.ports illegalCommand_good, .inr rfl⟩
  | ok i =>
    obtain ⟨t, h1, h2⟩ := exec_result i s
    exact ⟨i, t, h1, h2, .inl (eq_encodeWord_of_decodeWord hd)⟩

/-! ### Bus accesses (R71 to R79) -/

/-- An access that fits does not run past a boundary of four bytes. -/
theorem accessWf_end {w : Width} {a : Nat} (h : accessWf w a = true) (h1 : 0x100 ≤ a) {N : Nat} (hN : N % 4 = 0)
    (ha : a < N) : a + w.bytes ≤ N := by
  unfold accessWf at h
  simp only [Config.inBase, Nat.not_lt.mpr h1, if_false, beq_iff_eq] at h
  cases w <;> simp only [Width.bytes] at h ⊢ <;> omega

/-- Everything a register write can do. -/
theorem writeRegister_cases (a : Nat) (v : Word) (s : State) :
    (a = 0 ∧ writeRegister a v s = acceptCommand v s) ∨
    (a ≠ 0 ∧ ∃ o l g c, writeRegister a v s = { s with ovr := o, inLen := l, arg := g, cfg := c } ∧
        (o = s.ovr ∨ (a = 4 ∧ v.getLsbD 4 = true ∧ o = false))) := by
  unfold writeRegister
  split
  · exact .inl ⟨rfl, rfl⟩
  · right
    refine ⟨by decide, ?_⟩
    split
    · exact ⟨_, s.inLen, s.arg, s.cfg, rfl, .inr ⟨rfl, by assumption, rfl⟩⟩
    · exact ⟨_, s.inLen, s.arg, s.cfg, rfl, .inl rfl⟩
  · exact .inr ⟨by decide, s.ovr, _, s.arg, s.cfg, rfl, .inl rfl⟩
  · exact .inr ⟨by decide, s.ovr, s.inLen, _, s.cfg, rfl, .inl rfl⟩
  · exact .inr ⟨by decide, s.ovr, s.inLen, s.arg, _, rfl, .inl rfl⟩
  · rename_i h _ _ _ _
    exact .inr ⟨h, s.ovr, s.inLen, s.arg, s.cfg, rfl, .inl rfl⟩

@[simp] theorem bytesOfWord_length (v : Word) : (bytesOfWord v).length = 4 := rfl

/-- Everything a bus write at an offset of the window can do. -/
theorem busWrite_cases (w : Width) (a : Nat) (v : Word) (s : State) :
    (busWrite w a v s = (.busError, s) ∧ accessWf w a = false) ∨
    (busWrite w a v s = (.ok, { s with ovr := true }) ∧ s.pend ≠ none) ∨
    (s.pend = none ∧ w = .word ∧ a = 0 ∧ busWrite w a v s = (.ok, acceptCommand v s)) ∨
    (s.pend = none ∧ ∃ o l g c m, busWrite w a v s = (.ok, { s with ovr := o, inLen := l, arg := g, cfg := c, mem := m }) ∧
      (o = s.ovr ∨ (w = .word ∧ a = 4 ∧ v.getLsbD 4 = true ∧ o = false)) ∧
      (m = s.mem ∨ ∃ bs, m = Memory.writeBytes s.mem a bs ∧ 0x100 ≤ a ∧ a + bs.length ≤ 0x200)) := by
  unfold busWrite
  cases hw : accessWf w a with
  | false => left; simp
  | true =>
    simp only [Bool.not_true, Bool.false_eq_true, if_false]
    cases hp : s.pend with
    | some x => right; left; simp [State.busy, hp]
    | none =>
      simp only [State.busy, hp, Option.isSome_none, Bool.false_eq_true, if_false, writeIdle]
      right; right
      by_cases h1 : a < Config.inBase
      · have hww : w = .word := by
          simp only [accessWf, h1, if_true] at hw; cases w <;> simp at hw ⊢
        simp only [h1, if_true]
        obtain ⟨h0, h⟩ | ⟨h0, o, l, g, c, h, ho⟩ := writeRegister_cases a v s
        · left; exact ⟨trivial, hww, h0, by rw [h]⟩
        · right
          refine ⟨trivial, o, l, g, c, s.mem, by rw [h, hp], ?_, .inl rfl⟩
          tauto
      · simp only [h1, if_false]
        by_cases h2 : a < Config.outBase
        · simp only [h2, if_true]
          right
          refine ⟨trivial, s.ovr, s.inLen, s.arg, s.cfg, _, by rw [← hp], .inl rfl, .inr ⟨_, rfl, Nat.not_lt.mp h1, ?_⟩⟩
          have := accessWf_end hw (Nat.not_lt.mp h1) (N := 0x200) (by decide) h2
          rw [List.length_take, bytesOfWord_length]
          omega
        · simp only [h2, if_false]
          right
          exact ⟨trivial, s.ovr, s.inLen, s.arg, s.cfg, s.mem, by rw [← hp], .inl rfl, .inl rfl⟩

/-! ### The host's step (R17, R106) -/

/-- A load that is no `ld32 STATUS` leaves the BUSY seen last (R106). -/
theorem seenBusy_other {w : Width} {a : Nat} (h : ¬ (w = .word ∧ a = 4)) (r : Reply) (old : Option Bool) :
    seenBusy w a r old = old := by
  unfold seenBusy
  split
  · exact absurd ⟨rfl, rfl⟩ h
  · rfl

/-- Lines that neither open nor close a loop stand in front of the `end` looked for. -/
theorem stmtsToEnd_line {st : HostStmt} (h : st ≠ .endRep ∧ ∀ n, st ≠ .rep n) (d : Nat) (p : List HostStmt) :
    stmtsToEnd d (st :: p) = (stmtsToEnd d p).map (· + 1) := by
  cases st with
  | endRep => exact absurd rfl h.1
  | rep n => exact absurd rfl (h.2 n)
  | _ => rfl

/-- The forms of a host step's next state. -/
inductive HostResult (s : State) : State → Prop
  /-- Only the host agent, the request counter and the delay move. -/
  | agent (d n : Nat) (g : Agent) (hg : g.prog = s.agent.prog) :
    HostResult s { s with draws := d, delay := n, agent := g }
  /-- A write was dropped (R78). -/
  | dropped (n : Nat) (g : Agent) (h : s.pend ≠ none) : HostResult s { s with ovr := true, delay := n, agent := g }
  /-- A command was accepted (R77). -/
  | accept (v : Word) (d n : Nat) (p : Ports) (g : Agent) (h : s.pend = none)
    (hst : s.agent.prog[s.agent.pos]? = some (.st .word 0 v)) :
    HostResult s { latchCommand v s with draws := d, delay := n, ports := p, agent := g }
  /-- Another write was taken or ignored (R76). -/
  | write (o : Bool) (l : BitVec 9) (a : Word) (c : Cfg) (m : Memory) (n : Nat) (g : Agent) (h : s.pend = none)
    (ho : o = s.ovr ∨ ∃ v : Word, s.agent.prog[s.agent.pos]? = some (.st .word 4 v) ∧ v.getLsbD 4 = true ∧ o = false)
    (hm : m = s.mem ∨ ∃ x bs, m = Memory.writeBytes s.mem x bs ∧ 0x100 ≤ x ∧ x + bs.length ≤ 0x200) :
    HostResult s { s with ovr := o, inLen := l, arg := a, cfg := c, mem := m, delay := n, agent := g }
  /-- The reset input (R360). -/
  | reset (g : Agent) (h : s.agent.prog[s.agent.pos]? = some .assertReset) :
    HostResult s { State.reset with draws := s.draws, ports := s.ports, agent := g }

/-- Everything a host step can do. -/
theorem hostStep_result {s t : State} (h : hostStep s = .next t) : HostResult s t := by
  unfold hostStep at h
  split at h
  · cases h; exact .agent s.draws s.delay s.agent rfl
  · rename_i st hst
    cases st with
    | st w a v =>
      simp only [hostStmt, hostStore] at h
      split at h
      · obtain ⟨hb, -⟩ | ⟨hb, hp⟩ | ⟨hp, rfl, rfl, hb⟩ | ⟨hp, o, l, g, c, m, hb, ho, hm⟩ :=
          busWrite_cases w a v { s with delay := s.delay - 1 }
        · rw [hb] at h; cases h; exact .agent _ _ _ rfl
        · rw [hb] at h; cases h; exact .dropped _ _ hp
        · rw [hb] at h; cases h; exact .accept v _ _ _ _ hp hst
        · rw [hb] at h; cases h
          refine .write o l g c m _ _ hp ?_ ?_
          · obtain ho | ⟨rfl, rfl, h1, h2⟩ := ho
            · exact .inl ho
            · exact .inr ⟨v, hst, h1, h2⟩
          · obtain hm | ⟨bs, h1, h2, h3⟩ := hm
            · exact .inl hm
            · exact .inr ⟨a, bs, h1, h2, h3⟩
      · cases h
    | ld w a =>
      simp only [hostStmt, hostLoad] at h
      split at h
      · cases h; exact .agent _ _ _ rfl
      · cases h
    | rep n =>
      simp only [hostStmt, hostRep] at h
      split at h
      · cases h
      · cases h; exact .agent _ _ _ rfl
      · cases h; exact .agent _ _ _ rfl
    | endRep =>
      simp only [hostStmt, hostEnd] at h
      split at h
      · cases h
      · cases h; exact .agent _ _ _ rfl
      · cases h; exact .agent _ _ _ rfl
    | label l => cases h; exact .agent _ _ _ rfl
    | bneBusy l =>
      simp only [hostStmt, hostBranch] at h
      split at h
      · cases h
      · cases h; exact .agent _ _ _ rfl
      · split at h
        · cases h; exact .agent _ _ _ rfl
        · cases h
    | assertReset => cases h; exact .reset _ hst

/-- Everything a step can do. -/
theorem step_cases {s t : State} (h : step s = .next t) :
    ((s.pend = none ∨ blockNext s = false) ∧ HostResult s t) ∨
      ∃ i w, s.pend = some w ∧ blockNext s = true ∧ Result i s t ∧ (w = encodeWord i ∨ t = raise illegalCommand s) := by
  obtain ⟨w, hp, hb, hs⟩ | ⟨hh, hs⟩ := step_agent s
  · obtain ⟨i, t', h1, h2, h3⟩ := blockStep_result w s
    rw [hs, h1] at h
    cases h
    exact .inr ⟨i, w, hp, hb, h2, h3⟩
  · rw [hs] at h
    exact .inl ⟨hh, hostStep_result h⟩

end Sys2Proof.Machine
end

