-- ==== Sys2Proof/Tests/Slice0.lean ====
section
/-! SUPPORT. The model's own tests: the words of the spec's opcode table, the refusals of well-formedness, the vectors of 95_test_vectors.md one step each, and a witness for the hypotheses of every statement. -/

-- Each `decide +kernel` waits for the kernel; one after the other they need few threads.
set_option Elab.async false

namespace Sys2Proof.Tests

open Sys2Proof.Machine Sys2Proof.Claims

/-! ### Helpers -/

/-- `n` bytes of a number, the most significant first: a string's codes in order. -/
def be (n v : Nat) : List Byte := (List.range n).map fun i => BitVec.ofNat 8 (v / 256 ^ (n - 1 - i))

/-- The reset state with an input string in IN and its length in IN_LEN. -/
def input (bs : List Byte) : State :=
  { State.reset with mem := Memory.writeBytes [] 0x100 bs, inLen := BitVec.ofNat 9 bs.length }

/-- The token TA of 95_test_vectors.md section 5. -/
def ta : Token :=
  { valid := true
    publicId := packBytes 12 (be 12 0x636363636363636363636362)
    privateId := packBytes 6 (be 6 0x010203040506)
    secretKey := packBytes 16 (be 16 0x000102030405060708090A0B0C0D0E0F)
    counter := 1
    sessionUse := 0
    timestamp := 0x234567
    randomSeed := 0x1234 }

/-- The reset state with token TA. -/
def withTa : State := { State.reset with tok := ta }

/-- The state after a step that goes on. -/
def after (o : Out) : State :=
  match o with
  | .next s => s
  | _ => State.reset

/-- One step of the machine on a command word. -/
def run (op : Nat) (s : State) : State := after (step (s.withFetchWord 32 op))

/-- The first `n` bytes of OUT. -/
def out (n : Nat) (s : State) : List Byte := bufferBytes s 0x200 n

/-- A host agent with a program. -/
def host (p : List HostStmt) : Agent := { Agent.idle with prog := p }

/-! ### Words and bytes of the opcode table (R100 to R105) -/

theorem test_decode_modhex :
    decode [0b00010000, 0, 0, 0] = .ok (.mhIsValid, []) ∧
    decode [0b00010001, 0, 0, 0] = .ok (.mhValidate, []) ∧
    decode [0b00010010, 0, 0, 0] = .ok (.mhValidateLen, []) ∧
    decode [0b00010011, 0, 0, 0] = .ok (.mhDecodeHex, []) ∧
    decode [0b00010100, 0, 0, 0] = .ok (.mhDecodeInt, []) ∧
    decode [0b00010101, 0, 0, 0] = .ok (.mhEncodeHex, []) ∧
    decode [0b00010110, 0, 0, 0] = .ok (.mhEncodeBytes, []) ∧
    decode [0b00010111, 0, 0, 0] = .ok (.mhDecodeBytes, []) ∧
    decode [0b00011000, 0, 0, 0] = .ok (.mhRandom, []) := by
  decide

theorem test_decode_crc :
    decode [0b00100000, 0, 0, 0] = .ok (.crc16, []) ∧
    decode [0b00100001, 0, 0, 0] = .ok (.crc16Verify, []) := by
  decide

theorem test_decode_aes :
    decode [0b00110000, 0, 0, 0] = .ok (.aesEnc, []) := by
  decide

theorem test_decode_token :
    decode [0b01000000, 0, 0, 0] = .ok (.tokCreate, []) ∧
    decode [0b01000001, 0, 0, 0] = .ok (.tokGenerate, []) ∧
    decode [0b01000010, 0, 0, 0] = .ok (.tokAdvance, []) ∧
    decode [0b01000011, 0, 0, 0] = .ok (.tokPubid, []) ∧
    decode [0b01000100, 0, 0, 0] = .ok (.tokExportKey, []) ∧
    decode [0b01000101, 0, 0, 0] = .ok (.tokExportPrivid, []) := by
  decide

theorem test_decode_parser :
    decode [0b01010000, 0, 0, 0] = .ok (.otpValidate, []) ∧
    decode [0b01010001, 0, 0, 0] = .ok (.otpExtractPid, []) := by
  decide

theorem test_decode_rejects :
    decodeWord 0x00000000 = .error .reservedOp ∧ decodeWord 0x00000019 = .error .reservedOp ∧
    decodeWord 0x00000031 = .error .reservedOp ∧ decodeWord 0x00000046 = .error .reservedOp ∧
    decodeWord 0x000000FF = .error .reservedOp ∧ decodeWord 0x00000110 = .error .reservedBits ∧
    decode [0x10, 0, 0] = .error .truncated := by
  decide

theorem test_encode_bytes : encode .tokExportPrivid = [0x45, 0, 0, 0] := by decide

theorem test_table_word : decodeTableWord 32 0x51 = some .otpExtractPid := by decide

/-! ### Well-formedness refuses ill-formed terms -/

theorem test_wordWf : wordWf 0x110 = false ∧ wordWf 0x10 = true := by decide

theorem test_instr_wf : Instr.wf .crc16 = true := by decide

theorem test_accessWf : accessWf .byte 0x004 = false ∧ accessWf .half 0x00C = false ∧ accessWf .word 0x006 = false ∧
    accessWf .half 0x101 = false ∧ accessWf .word 0x102 = false ∧ accessWf .word 0x004 = true ∧
    accessWf .byte 0x101 = true := by
  decide

theorem test_valueWf : valueWf .byte 0x100 = false ∧ valueWf .half 0x10000 = false ∧ valueWf .word 0xFFFFFFFF = true := by
  decide

theorem test_hostStmt_wf : HostStmt.wf (.st .byte 0x100 0x163) = false ∧ HostStmt.wf (.st .word 0x400 0) = false ∧
    HostStmt.wf (.ld .half 0x004) = false ∧ HostStmt.wf (.ld .word 0x004) = true := by
  decide

theorem test_loopsWf : loopsWf 0 [.endRep] = false ∧ loopsWf 0 [.rep 2] = false ∧ loopsWf 0 [.rep 2, .endRep] = true := by
  decide

theorem test_labelsWf : labelsWf [.bneBusy 1] = false ∧ labelsWf [.label 1, .label 1, .bneBusy 1] = false ∧
    labelsWf [.label 1, .bneBusy 1] = true := by
  decide

theorem test_programWf : programWf [.ld .byte 0x004] = false ∧ programWf [.endRep] = false ∧
    programWf [.bneBusy 0] = false ∧ programWf (pseudoRun .crc16 0) = true := by
  decide

/-! ### The modhex codec (95, sections 1 and 2) -/

/-- M2. -/
theorem test_mhIsValid_odd : (run 0x10 (input (be 1 0x63))).resBool = true ∧ statusWord (run 0x10 (input (be 1 0x63))) = 0x2 := by decide +kernel

/-- M3. -/
theorem test_mhIsValid_uppercase : (run 0x10 (input (be 3 0x634264))).resBool = false ∧ statusWord (run 0x10 (input (be 3 0x634264))) = 0x2 := by decide +kernel

/-- M7. -/
theorem test_mhValidate_empty : statusWord (run 0x11 (input [])) = 0x00010206 := by decide +kernel

/-- M9. -/
theorem test_mhValidate_first : statusWord (run 0x11 (input (be 4 0x63786378))) = 0x00000106 ∧ (run 0x11 (input (be 4 0x63786378))).errInfo = 1 := by decide +kernel

/-- S15. -/
theorem test_mhValidateLen_before_chars : statusWord (run 0x12 { input (be 2 0x7878) with arg := 3 }) = 0x00020206 := by decide +kernel

/-- M16. -/
theorem test_mhValidateLen_wide : statusWord (run 0x12 { input (be 12 0x636363636363636363636362) with arg := 0x10C }) = 0x00020206 := by decide +kernel

/-- M17. -/
theorem test_mhDecodeHex : out 4 (run 0x13 (input (be 4 0x76766C63))) = (be 4 0x66666130) ∧ (run 0x13 (input (be 4 0x76766C63))).outLen = 4 := by decide +kernel

/-- M20. -/
theorem test_mhDecodeHex_empty : statusWord (run 0x13 (input [])) = 0x00010206 := by decide +kernel

/-- M23. -/
theorem test_mhDecodeInt : (run 0x14 (input (be 16 0x63626465666768696A6B6C6E72747576))).resIntHi = 0x01234567 ∧
    (run 0x14 (input (be 16 0x63626465666768696A6B6C6E72747576))).resIntLo = 0x89ABCDEF := by decide +kernel

/-- M28. -/
theorem test_mhDecodeInt_order : statusWord (run 0x14 (input (be 17 0x6363636363636363636363636363636378))) = 0x00000106 := by decide +kernel

/-- M29. -/
theorem test_mhEncodeHex : out 2 (run 0x15 (input (be 2 0x4162))) = (be 2 0x6C6E) := by decide +kernel

/-- M33. -/
theorem test_mhEncodeHex_odd_first : statusWord (run 0x15 (input (be 3 0x78797A))) = 0x00010306 := by decide +kernel

/-- M35. -/
theorem test_mhEncodeBytes : out 6 (run 0x16 (input (be 3 0x00FF5A))) = (be 6 0x63637676676C) ∧ (run 0x16 (input (be 3 0x00FF5A))).outLen = 6 := by decide +kernel

/-- M39: all 256 bytes 0x00. -/
theorem test_mhEncodeBytes_full : (run 0x16 { State.reset with mem := Memory.writeBytes [] 0x100 (List.replicate 256 0), inLen := 256 }).outLen = 512 := by decide +kernel

/-- M40. -/
theorem test_mhDecodeBytes : out 3 (run 0x17 (input (be 6 0x63637676676C))) = be 3 0x00FF5A := by decide +kernel

/-- M41. -/
theorem test_mhDecodeBytes_odd : statusWord (run 0x17 (input (be 1 0x63))) = 0x00040206 := by decide +kernel

/-- M44. -/
theorem test_mhRandom : out 12 (run 0x18 { State.reset with arg := 12, ports := ⟨[some (be 6 0x0123456789AB)], [], []⟩ }) = (be 12 0x63626465666768696A6B6C6E) := by decide +kernel

/-- M47 with 515 for 514: the check comes before parity. -/
theorem test_mhRandom_range_before_parity : statusWord (run 0x18 { State.reset with arg := 515, ports := ⟨[], [], []⟩ }) = 0x00021106 := by decide +kernel

/-! ### CRC-16 (95, sections 1 and 4) -/

/-- S4. -/
theorem test_crc16 : (run 0x20 (input (be 3 0x123456))).resCrc = 0x12FD := by decide +kernel

/-- K1. -/
theorem test_crc16_check : (run 0x20 (input (be 9 0x313233343536373839))).resCrc = 0x29B1 := by decide +kernel

/-- the vectors after K13. -/
theorem test_crc16Verify : (run 0x21 { input (be 1 0x00) with arg := 0xE1F0 }).resBool = true ∧
    (run 0x21 { input (be 1 0x00) with arg := 0xF0E1 }).resBool = false := by decide +kernel

/-- the empty string with ARG = 0x0001FFFF. -/
theorem test_crc16Verify_ignores_high : (run 0x21 { State.reset with arg := 0x0001FFFF }).resBool = true := by decide +kernel

/-! ### AES-128 (95, section 3) -/

/-- A1. -/
theorem test_aesEnc : out 16 (run 0x30 { input (be 16 0x00112233445566778899AABBCCDDEEFF) with tok := ta }) =
    be 16 0x69C4E0D86A7B0430D8CDB78070B4C55A := by decide +kernel

/-- A4: IN_LEN = 300 gives detail 4. -/
theorem test_aesEnc_length : statusWord (run 0x30 { withTa with inLen := 300 }) = 0x0004110E := by decide +kernel

/-- A2. -/
theorem test_aes_appendixB : aes128 (be 16 0x2B7E151628AED2A6ABF7158809CF4F3C) (be 16 0x3243F6A8885A308D313198A2E0370734) =
    be 16 0x3925841D02DC09FBDC118597196A0B32 := by decide +kernel

/-- A3. -/
theorem test_aes_zero : aes128 (be 16 0) (be 16 0) = be 16 0x66E94BD4EF8A2C3B884CFA59CA342B2E := by decide +kernel

/-- A2, round key 1. -/
theorem test_round_key : nextRoundKey 0x01 (be 16 0x2B7E151628AED2A6ABF7158809CF4F3C) = be 16 0xA0FAFE1788542CB123A339392A6C7605 := by decide +kernel

/-- A2, round 1. -/
theorem test_round_one : mixColumns (shiftRows (subBytes (be 16 0x193DE3BEA0F4E22B9AC68D2AE9F84808))) = be 16 0x046681E5E0CB199A48F8D37A2806264C := by decide +kernel

/-- the GF(2^8) and S-box checks. -/
theorem test_field : xtime 0x57 = 0xAE ∧ gfMul 0x57 0x83 = 0xC1 ∧ gfMul 0x57 0x13 = 0xFE ∧ sbox 0x53 = 0xED := by decide +kernel

/-! ### The token (95, section 5) -/

/-- The start of T6. -/
def createTa : State :=
  { State.reset with
    cfg := Cfg.ofWord 0x10060C07
    mem := Memory.writeBytes [] 0x100 ((be 12 0x636363636363636363636362) ++ be 22 0x010203040506000102030405060708090A0B0C0D0E0F)
    ports := ⟨[some (be 2 0x3412)], [0x01234567], []⟩ }

/-- The start of T7. -/
def createDrawn : State :=
  { State.reset with
    ports := ⟨[some (be 6 0x0123456789AB), some (be 6 0x101112131415), some (be 16 0x202122232425262728292A2B2C2D2E2F),
      some (be 2 0xFF00)], [0x7FFFFFFF], []⟩ }

/-- The start of T1. -/
def generateTa : State := { withTa with ports := ⟨[some (be 2 0xAABB)], [0x01234567], []⟩ }

/-- T6. -/
theorem test_tokCreate_supplied : (run 0x40 createTa).tok = ta ∧ statusWord (run 0x40 createTa) = 0xA := by decide +kernel

/-- T7. -/
theorem test_tokCreate_drawn : fieldBytes (run 0x40 createDrawn).tok.publicId = (be 12 0x63626465666768696A6B6C6E) ∧
    (run 0x40 createDrawn).tok.randomSeed = 0x00FF ∧ (run 0x40 createDrawn).tok.timestamp = 0xFFFFFF := by decide +kernel

/-- T1. -/
theorem test_tokGenerate : out 44 (run 0x41 generateTa) = (be 44 0x6363636363636363636363627272666B6C6E62696972696C6B646E656A6C636B656676646C766B64666E6876) ∧
    (run 0x41 generateTa).resCrc = 0x09FF ∧ (run 0x41 generateTa).resSession = 1 := by decide +kernel

/-- T16. -/
theorem test_tokGenerate_failed : statusWord (run 0x41 { withTa with ports := ⟨[none], [0x222222], []⟩ }) = 0x0000090E ∧
    (run 0x41 { withTa with ports := ⟨[none], [0x222222], []⟩ }).tok.sessionUse = 1 := by decide +kernel

/-- T19. -/
theorem test_tokAdvance_wraps : (run 0x42 { withTa with tok := { ta with counter := 0xFFFF, sessionUse := 9 } }).tok.counter = 0 ∧
    (run 0x42 { withTa with tok := { ta with counter := 0xFFFF, sessionUse := 9 } }).tok.sessionUse = 0 := by decide +kernel

/-- T23. -/
theorem test_tokAdvance_no_token : statusWord (run 0x42 State.reset) = 0x00001206 := by decide +kernel

/-- T20. -/
theorem test_tokPubid : out 12 (run 0x43 withTa) = (be 12 0x636363636363636363636362) ∧ (run 0x43 withTa).outLen = 12 := by decide +kernel

/-- T21. -/
theorem test_tokExportKey : out 16 (run 0x44 withTa) = be 16 0x000102030405060708090A0B0C0D0E0F := by decide +kernel

/-- T22. -/
theorem test_tokExportPrivid : out 6 (run 0x45 withTa) = be 6 0x010203040506 := by decide +kernel

/-! ### The parser (95, section 6) -/

/-- P3. -/
theorem test_otpValidate : (run 0x50 (input (be 44 0x7676767676767676767676766B6B69756969627268766375676B75666266627462656E65696365687676746A))).resIntHi = 0xFFFF ∧
    (run 0x50 (input (be 44 0x7676767676767676767676766B6B69756969627268766375676B75666266627462656E65696365687676746A))).resIntLo = 0xFFFFFFFF := by decide +kernel

/-- P7. -/
theorem test_otpValidate_bad : statusWord (run 0x50 (input (be 44 0x6363636363636363636363627272666B6C6E62696972696C6B646E656A6C786B656676646C766B64666E6876))) = 0x00000806 ∧
    (run 0x50 (input (be 44 0x6363636363636363636363627272666B6C6E62696972696C6B646E656A6C786B656676646C766B64666E6876))).errInfo = 30 := by decide +kernel

/-- P2. -/
theorem test_otpExtractPid : out 12 (run 0x51 (input (be 44 0x6363636363636363636363627272666B6C6E62696972696C6B646E656A6C636B656676646C766B64666E6876))) = (be 12 0x636363636363636363636362) := by decide +kernel

/-- P10. -/
theorem test_otpExtractPid_range : statusWord (run 0x51 { State.reset with inLen := 300 }) = 0x00011106 := by decide +kernel

/-! ### The window (95, section 7) -/

/-- H4. -/
theorem test_illegal : statusWord (run 0x110 (input (be 1 0x63))) = 0x00001006 ∧ (run 0x110 (input (be 1 0x63))).resBool = false := by decide +kernel

/-- H7, H8. -/
theorem test_bus_error : busWrite .byte 0x004 0x10 State.reset = (.busError, State.reset) ∧
    (busWrite .half 0x101 0x1234 State.reset).1 = .busError := by decide +kernel

/-- H9. -/
theorem test_little_endian : busRead .byte 0x101 (busWrite .word 0x100 0x00563412 State.reset).2 = .data 0x34 := by decide +kernel

/-- H12. -/
theorem test_inLen_bits : busRead .word 0x008 (busWrite .word 0x008 0xFFFFFFFF State.reset).2 = .data 0x1FF := by decide +kernel

/-- H14. -/
theorem test_dropped_write : (busWrite .word 0x008 0 { State.reset with pend := some 0x10 }).2.ovr = true ∧
    (busWrite .word 0x004 0x10 { State.reset with ovr := true }).2.ovr = false := by decide +kernel

/-- Log entry 14: a `rep` without its `end` faults. -/
theorem test_rep_without_end : hostStmt (.rep 2) { State.reset with agent := host [.rep 2, .label 0] } = .fault .unmatchedLoop := rfl

/-! ### Witnesses: for each statement with hypotheses, states and operands that meet them, clause by clause -/

/-- A pending command whose step is next. -/
def pending (w : Word) (s : State) : State := { s with pend := some w }

/-- A pending command and a host with one more statement to go. -/
def waiting (w : Word) (p : List HostStmt) (s : State) : State := { s with pend := some w, delay := 1, agent := host p }

/-- An idle block and a host's program. -/
def hosted (p : List HostStmt) (s : State) : State := { s with agent := host p }

theorem witness_DecodeAndEncodeAgree :
    Instr.wf .tokAdvance = true ∧ decode [0x42, 0, 0, 0, 0xFF] = .ok (.tokAdvance, [0xFF]) :=
  by decide

theorem witness_IllegalCommandCompletes :
    BlockTurn (pending 0x46 State.reset) 0x46 ∧ (0x46 : Word).toNat % 256 ∉ opValues ∧
    BlockTurn (pending 0x110 State.reset) 0x110 ∧ (0x110 : Word).toNat / 256 ≠ 0 ∧ (0xFFFFFFFF : Word).toNat / 256 ≠ 0 :=
  ⟨⟨rfl, .inl rfl⟩, by decide, ⟨rfl, .inl rfl⟩, by decide, by decide⟩

theorem witness_StepRunsTheDecodedCommand :
    BlockTurn (pending 0x10 State.reset) 0x10 ∧ decodeWord 0x10 = .ok .mhIsValid ∧ decodeTableWord 32 0x51 = some .otpExtractPid :=
  ⟨⟨rfl, .inl rfl⟩, rfl, rfl⟩

theorem witness_HostTurnRunsTheNextStatement :
    (HostTurn (hosted [.ld .word 4] State.reset) ∧ (hosted [.ld .word 4] State.reset).agent.prog[0]? = some (.ld .word 4)) ∧
    HostTurn (waiting 0x10 [.ld .word 4] State.reset) ∧
    (withTa.pend = none ∧ withTa.agent.prog.length ≤ withTa.agent.pos) :=
  ⟨⟨.inl rfl, rfl⟩, .inr ⟨by decide, by decide⟩, rfl, by decide⟩

theorem witness_BlockStepCompletesTheCommand :
    BlockTurn (pending 0x42 withTa) 0x42 ∧ BlockTurn { pending 0x42 withTa with delay := 7 } 0x42 :=
  ⟨⟨rfl, .inl rfl⟩, rfl, .inr (by decide)⟩

/-- A host that polls. -/
def polling : State :=
  { pending 0x20 State.reset with
    delay := 5
    agent := { host [.label 0, .ld .word 4, .bneBusy 0] with pos := 2, lastBusy := some true } }

theorem witness_NothingIsPendingAfterTheLatency :
    polling.pend ≠ none ∧ OnlyAccesses polling.agent.prog ∧ polling.agent.lastBusy ≠ none ∧
    (waiting 0x10 [.endRep] State.reset).pend ≠ none :=
  by
  refine ⟨by decide, ?_, by decide, by decide⟩
  intro st hst
  simp only [polling, host, List.mem_cons, List.not_mem_nil, or_false] at hst
  obtain rfl | rfl | rfl := hst
  · exact .inr (.inr (.inl ⟨0, rfl⟩))
  · exact .inr (.inl ⟨.word, 4, by decide, rfl⟩)
  · exact .inr (.inr (.inr (.inl ⟨0, by decide, rfl⟩)))

theorem witness_Inv : Inv (pending 0x42 withTa) :=
  ⟨rfl, by decide +kernel, by decide, rfl, by decide, rfl, fun _ => by decide, by decide, fun _ h => absurd h (by decide +revert)⟩

theorem witness_StepKeepsTheInvariant :
    Inv (pending 0x42 withTa) ∧ ∃ t, step (pending 0x42 withTa) = .next t :=
  ⟨witness_Inv, _, rfl⟩

theorem witness_OnlyTokenCommandsWriteTheToken :
    (∃ t, step (pending 0x42 withTa) = .next t ∧ t.tok.counter ≠ withTa.tok.counter) ∧
    ¬ (HostTurn (pending 0x42 withTa) ∧ ResetNext (pending 0x42 withTa)) ∧
    ¬ HostTurn { pending 0x42 withTa with agent := host [.assertReset] } :=
  ⟨⟨_, rfl, by decide⟩, fun h => absurd h.2 (by unfold ResetNext; decide),
    fun h => h.elim nofun fun h => h.1 rfl⟩

theorem witness_ErrorsLeaveNoEffect :
    ∃ t, exec .tokAdvance State.reset = .next t ∧ t.err = true ∧ ¬ (Instr.tokAdvance = .tokGenerate ∧ t.errCode = .randomSourceFailure) :=
  ⟨_, rfl, rfl, by decide⟩

theorem witness_ResultsChangeOnlyInTheirCommands :
    (∃ t, exec .mhIsValid (input [0x63]) = .next t ∧ t.resBool ≠ (input [0x63]).resBool) ∧
    (∃ t, exec .crc16 State.reset = .next t ∧ t.resCrc ≠ State.reset.resCrc) ∧
    (∃ t, exec .mhDecodeInt (input [0x62]) = .next t ∧ t.resIntLo ≠ (input [0x62]).resIntLo) ∧
    (∃ t, exec .tokGenerate generateTa = .next t ∧ t.resCounter ≠ generateTa.resCounter) ∧
    ∃ t, exec .tokPubid withTa = .next t ∧ t.outLen ≠ withTa.outLen ∧ Memory.read t.mem 0x200 ≠ Memory.read withTa.mem 0x200 :=
  ⟨⟨_, rfl, by decide +kernel⟩, ⟨_, rfl, by decide +kernel⟩, ⟨_, rfl, by decide +kernel⟩, ⟨_, rfl, by decide +kernel⟩, _, rfl, by decide +kernel, by decide +kernel⟩

theorem witness_PendingCommandKeepsItsOperands :
    HostTurn (waiting 0x10 [.st .word 0x008 0] State.reset) ∧ ¬ ResetNext (waiting 0x10 [.st .word 0x008 0] State.reset) ∧
    (∃ t, step (waiting 0x10 [.st .word 0x008 0] State.reset) = .next t) ∧ (waiting 0x10 [] { State.reset with ovr := true }).ovr = true :=
  ⟨.inr ⟨by decide, by decide⟩, by unfold ResetNext; decide, ⟨_, rfl⟩, rfl⟩

theorem witness_OvrIsClearedOnlyByWritingOne :
    (∃ t, step (hosted [.st .word 0x004 0x10] { State.reset with ovr := true }) = .next t ∧ t.ovr = false) ∧
    ∃ t, step (hosted [.assertReset] { State.reset with ovr := true }) = .next t ∧ t.ovr = false :=
  ⟨⟨_, rfl, rfl⟩, _, rfl, rfl⟩

theorem witness_OnlyACmdWriteMakesTheBlockBusy :
    ∃ t, step (hosted [.st .word 0x000 0x20] State.reset) = .next t ∧ State.reset.pend = none ∧ t.pend ≠ none :=
  ⟨_, rfl, rfl, by decide⟩

theorem witness_TokenCommandsNeedAToken :
    Instr.aesEnc ∈ needsToken ∧ Instr.tokExportPrivid ∈ needsToken ∧ State.reset.tok.valid = false :=
  by decide

theorem witness_SecretsLeaveOnlyByTheirCommands :
    AgreeButSecrets (pending 0x43 withTa) { pending 0x43 withTa with tok := { ta with secretKey := packBytes 16 [] } } ∧
    ta.secretKey ≠ packBytes 16 [] ∧ BlockTurn (pending 0x43 withTa) 0x43 :=
  ⟨rfl, by decide +kernel, rfl, .inl rfl⟩

theorem witness_MisfitAccessIsABusError :
    Misfit .byte 0x0FF ∧ Misfit .half 0x000 ∧ Misfit .word 0x0FE ∧ Misfit .half 0x101 ∧ Misfit .word 0x3FE ∧
    ¬ Misfit .word 0x0FC ∧ ¬ Misfit .byte 0x101 ∧ ¬ Misfit .half 0x3FE ∧ ¬ Misfit .word 0x3FC :=
  by
  unfold Misfit
  repeat' apply And.intro
  all_goals decide +kernel

theorem witness_CmdWriteAcceptsACommand :
    State.reset.pend = none :=
  rfl

theorem witness_BusyWritesAreDropped :
    (pending 0x10 State.reset).pend ≠ none ∧ ¬ Misfit .byte 0x3FF ∧ ¬ Misfit .word 0x000 ∧ Misfit .byte 0x000 :=
  by
  unfold Misfit
  repeat' apply And.intro
  all_goals decide +kernel

theorem witness_IdleRegisterWrites :
    State.reset.pend = none ∧ 0x014 % 4 = 0 ∧ 0x0FC < 0x100 ∧ 0x0FC % 4 = 0 ∧ ¬ Misfit .byte 0x200 ∧ ¬ Misfit .word 0x3FC :=
  by
  unfold Misfit
  repeat' apply And.intro
  all_goals decide +kernel

theorem witness_InWritesAreLittleEndian :
    State.reset.pend = none ∧ ¬ Misfit .word 0x100 ∧ ¬ Misfit .half 0x1FE ∧ ¬ Misfit .byte 0x1FF ∧ 0 < Width.bytes .byte ∧
    3 < Width.bytes .word :=
  by
  unfold Misfit
  repeat' apply And.intro
  all_goals decide +kernel

theorem witness_IdleRegisterReads :
    State.reset.pend = none ∧ 0x048 % 4 = 0 ∧ 0x0FC < 0x100 ∧ 0x0FC % 4 = 0 ∧ ¬ Misfit .byte 0x100 ∧ ¬ Misfit .half 0x3FE ∧
    [(0x34 : Byte), 0x12].length = Width.bytes .half ∧
    ∀ k, k < Width.bytes .half → Memory.read (Memory.writeBytes [] 0x3FE [0x34, 0x12]) (0x3FE + k) = some ([(0x34 : Byte), 0x12].getD k 0) :=
  by
  unfold Misfit
  repeat' apply And.intro
  all_goals decide +kernel

theorem witness_BusyReads :
    (pending 0x10 State.reset).pend ≠ none ∧ ¬ Misfit .word 0x004 ∧ ¬ Misfit .word 0x000 ∧ ¬ Misfit .word 0x010 ∧
    ¬ Misfit .byte 0x100 ∧ ¬ Misfit .byte 0x1FF ∧ ¬ Misfit .word 0x014 ∧ ¬ Misfit .word 0x044 ∧ ¬ Misfit .byte 0x200 ∧
    ¬ Misfit .byte 0x3FF ∧ ¬ Misfit .word 0x048 ∧ ¬ Misfit .word 0x0FC ∧ (pending 0x30 withTa).pend ≠ none ∧ (pending 0x30 withTa).draws = (pending 0x10 State.reset).draws :=
  by
  unfold Misfit
  repeat' apply And.intro
  all_goals decide +kernel

theorem witness_ReadsHaveNoSideEffect :
    State.reset.pend = none ∧ 0x0FC < 0x100 ∧
    ∀ k, k < Width.bytes .byte → Memory.read (input [0x63]).mem (0x100 + k) ≠ none :=
  by decide +kernel

theorem witness_InputStringIsReadFromIn :
    0 < (input [0x63]).inLen.toNat ∧ Memory.read (input [0x63]).mem 0x100 = some 0x63 ∧
    510 < ({ State.reset with inLen := 511 } : State).inLen.toNat :=
  by decide +kernel

theorem witness_ResetLeavesTheResetValues :
    0x000 < 0x100 ∧ 0x0FC < 0x100 ∧ 0x0FC % 4 = 0 ∧ Instr.tokPubid ∈ needsToken :=
  by decide

theorem witness_ResetInputClearsTheBlock :
    (HostTurn (hosted [.assertReset] withTa) ∧ ResetNext (hosted [.assertReset] withTa)) ∧
    HostTurn (waiting 0x41 [.assertReset] withTa) ∧ ResetNext (waiting 0x41 [.assertReset] withTa) :=
  ⟨⟨.inl rfl, rfl⟩, .inr ⟨by decide, by decide⟩, rfl⟩

theorem witness_ModhexTablesAreMutualInverses :
    (0x63 : Byte) ∈ alphabet ∧ (0x76 : Byte) ∈ alphabet ∧ (0x43 : Byte) ∉ alphabet :=
  by decide

theorem witness_ModhexRoundTrips :
    [(0 : Byte)] ≠ [] ∧ (be 2 0x6146) ≠ [] ∧ (be 2 0x6146).length % 2 = 0 ∧ ∀ c ∈ (be 2 0x6146), IsHexChar c :=
  by
  unfold IsHexChar
  decide

/-- IN_LEN out of range at its ends, for every `RangeChecked`. -/
theorem witness_RangeChecked : 256 < ({ State.reset with inLen := 257 } : State).inLen.toNat ∧ 256 < ({ State.reset with inLen := 511 } : State).inLen.toNat := by decide

theorem witness_MhIsValidRule :
    ({ State.reset with inLen := 256 } : State).inLen.toNat ≤ 256 :=
  by decide

theorem witness_MhValidateRule :
    (input (be 4 0x63637863)).inLen.toNat ≤ 256 ∧
    Claims.input State.reset = [] ∧
    FirstOffender (· ∈ alphabet) (Claims.input (input (be 4 0x63637863))) 2 ∧
    FirstOffender (· ∈ alphabet) (Claims.input (input (be 1 0x78))) 0 ∧
    Modhex (Claims.input (input (be 1 0x63))) :=
  by
  unfold FirstOffender Modhex
  decide +kernel

theorem witness_MhValidateLenRule :
    (input (be 2 0x7878)).inLen.toNat ≠ ({ (input (be 2 0x7878)) with arg := 3 } : State).arg.toNat ∧
    (input (be 1 0x63)).inLen.toNat = ({ (input (be 1 0x63)) with arg := 1 } : State).arg.toNat ∧
    Claims.input State.reset = [] ∧
    FirstOffender (· ∈ alphabet) (Claims.input (input (be 1 0x78))) 0 ∧
    Modhex (Claims.input (input (be 1 0x63))) :=
  by
  unfold FirstOffender Modhex
  decide +kernel

theorem witness_MhDecodeHexRule :
    Claims.input State.reset = [] ∧
    FirstOffender (· ∈ alphabet) (Claims.input (input (be 2 0x6378))) 1 ∧
    Modhex (Claims.input (input (be 4 0x76766C63))) :=
  by
  unfold FirstOffender Modhex
  decide +kernel

theorem witness_MhDecodeIntRule :
    Claims.input State.reset = [] ∧
    FirstOffender (· ∈ alphabet) (Claims.input (input (be 2 0x7678))) 1 ∧
    Modhex (Claims.input (input (be 17 0x6363636363636363636363636363636363))) ∧
    16 < (input (be 17 0x6363636363636363636363636363636363)).inLen.toNat ∧
    Modhex (Claims.input (input (be 16 0x76767676767676767676767676767676))) ∧
    (input (be 16 0x76767676767676767676767676767676)).inLen.toNat ≤ 16 :=
  by
  unfold FirstOffender Modhex
  decide +kernel

theorem witness_MhEncodeHexRule :
    (input (be 3 0x616263)).inLen.toNat % 2 = 1 ∧
    FirstOffender IsHexChar (Claims.input (input (be 2 0x3067))) 1 ∧
    ∀ c ∈ Claims.input (input (be 2 0x4162)), IsHexChar c :=
  by
  unfold FirstOffender IsHexChar
  decide +kernel

theorem witness_MhEncodeBytesRule :
    ({ State.reset with inLen := 256 } : State).inLen.toNat ≤ 256 ∧ State.reset.inLen.toNat ≤ 256 :=
  by decide

theorem witness_MhDecodeBytesRule :
    Claims.input State.reset = [] ∧
    FirstOffender (· ∈ alphabet) (Claims.input (input (be 2 0x6378))) 1 ∧
    Modhex (Claims.input (input (be 1 0x63))) ∧
    (input (be 1 0x63)).inLen.toNat % 2 = 1 ∧
    Modhex (Claims.input (input (be 6 0x63637676676C))) ∧
    (input (be 6 0x63637676676C)).inLen.toNat % 2 = 0 :=
  by
  unfold FirstOffender Modhex
  decide +kernel

/-- The reset state with ARG and one scripted entropy answer. -/
def random (n : Word) (a : Option (List Byte)) : State := { State.reset with arg := n, ports := ⟨[a], [], []⟩ }

theorem witness_MhRandomRule :
    512 < (random 513 none).arg.toNat ∧ ((random 511 none).arg.toNat ≤ 512 ∧ (random 511 none).arg.toNat % 2 = 1) ∧
    (random 0 none).arg = 0 ∧
    (0 < (random 512 none).arg.toNat ∧ (random 512 none).arg.toNat ≤ 512 ∧ (random 512 none).arg.toNat % 2 = 0 ∧
      nextEntropy 256 (random 512 none) = none) ∧
    nextEntropy 1 (random 2 (some [0xAB])) = some [0xAB] :=
  by decide +kernel

theorem witness_Crc16Rule :
    ({ State.reset with inLen := 256 } : State).inLen.toNat ≤ 256 :=
  by decide

theorem witness_Crc16VerifyRule :
    ({ State.reset with inLen := 256 } : State).inLen.toNat ≤ 256 :=
  by decide

theorem witness_SboxIsItsDefinition :
    (0xFF : Byte) ≠ 0 :=
  by decide

theorem witness_RoundOperationsByRowAndColumn :
    (be 16 0xFF).length = 16 ∧ 3 < 4 :=
  by decide

/-- The expanded words of a key, by R208 read from the end of the words made so far. -/
def expand (key : List Byte) : Nat → List (List Byte)
  | 0 => (List.range 4).map fun i => (key.drop (4 * i)).take 4
  | n + 1 =>
    let ws := expand key n
    ws ++ [List.zipWith (· ^^^ ·) (ws.getD n []) (keyTerm (n + 4) (ws.getD (n + 3) []))]

/-- The 44 words of the key of FIPS-197 Appendix B. -/
def expandedB : List (List Byte) := expand (be 16 0x2B7E151628AED2A6ABF7158809CF4F3C) 40

theorem witness_IsKeyExpansion : IsKeyExpansion (be 16 0x2B7E151628AED2A6ABF7158809CF4F3C) fun i => expandedB.getD i [] := by
  unfold IsKeyExpansion
  decide +kernel

/-- The states after the rounds on a block under words. -/
def rounds (block : List Byte) (w : Nat → List Byte) : Nat → List Byte
  | 0 => List.zipWith (· ^^^ ·) block (roundKeyOf w 0)
  | k + 1 => List.zipWith (· ^^^ ·) (mixColumns (shiftRows (subBytes (rounds block w k)))) (roundKeyOf w (k + 1))

theorem witness_CipherRunsItsRoundsOverTheExpandedKey : ∃ s : Nat → List Byte, (be 16 1).length = 16 ∧
    s 0 = List.zipWith (· ^^^ ·) (be 16 1) (roundKeyOf (fun i => expandedB.getD i []) 0) ∧
    ∀ k, 1 ≤ k → k ≤ 9 → s k = List.zipWith (· ^^^ ·) (mixColumns (shiftRows (subBytes (s (k - 1)))))
      (roundKeyOf (fun i => expandedB.getD i []) k) := by
  refine ⟨rounds (be 16 1) fun i => expandedB.getD i [], by decide, rfl, fun k h _ => ?_⟩
  cases k with
  | zero => exact absurd h (by decide)
  | succ k => rfl

theorem witness_CipherIsInjective :
    (be 16 7).length = 16 ∧ aes128 (be 16 7) (be 16 9) = aes128 (be 16 7) (be 16 9) :=
  ⟨by decide, rfl⟩

theorem witness_AesEncRule :
    State.reset.tok.valid = false ∧ (withTa.tok.valid = true ∧ ({ withTa with inLen := 15 } : State).inLen ≠ 16) ∧
    ({ withTa with inLen := 16 } : State).inLen = 16 :=
  by decide

/-- The reset state with a configuration and an IN buffer. -/
def configured (cfg : Word) (bs : List Byte) : State :=
  { State.reset with cfg := Cfg.ofWord cfg, mem := Memory.writeBytes [] 0x100 bs }

theorem witness_TokCreateChecksItsConfiguration :
    256 < suppliedLen (configured 0xFFFFFF07 []).cfg ∧ 256 < suppliedLen (configured 0x0002FF03 []).cfg ∧
    (suppliedLen (configured 0x0001FF03 []).cfg = 256 ∧ (configured 0x0001FF03 []).cfg.pubP = true ∧
      (configured 0x0001FF03 []).cfg.pubLen ≠ 12) ∧
    (suppliedLen (configured 0x0B01 []).cfg ≤ 256 ∧ (configured 0x0B01 []).cfg.pubP = true ∧ (configured 0x0B01 []).cfg.pubLen ≠ 12) ∧
    FirstOffender (· ∈ alphabet) (suppliedPub (configured 0x0C01 (be 12 0x636363636363636363636378))) 11 ∧
    (PubFits (configured 0x00050002 []) ∧ (configured 0x00050002 []).cfg.privP = true ∧ (configured 0x00050002 []).cfg.privLen ≠ 6) ∧
    (PubFits (configured 0x0F000004 []) ∧ PrivFits (configured 0x0F000004 []) ∧ (configured 0x0F000004 []).cfg.keyP = true ∧
      (configured 0x0F000004 []).cfg.keyLen ≠ 16) ∧
    (suppliedLen createTa.cfg ≤ 256 ∧ PubFits createTa ∧ PrivFits createTa ∧ KeyFits createTa) :=
  by
  unfold FirstOffender PubFits PrivFits KeyFits
  repeat' apply And.intro
  all_goals decide +kernel

theorem witness_TokCreateCommitsTheToken :
    256 < suppliedLen (configured 0x0002FF03 []).cfg ∧
    (suppliedLen createTa.cfg ≤ 256 ∧ PubFits createTa ∧ PrivFits createTa ∧ KeyFits createTa ∧
      [be 2 0x3412].map List.length = requestSizes createTa.cfg ∧ createTa.ports.entropy = [be 2 0x3412].map some ++ [] ∧
      createTa.ports.time = [0x01234567]) ∧
    suppliedLen createDrawn.cfg ≤ 256 ∧ PubFits createDrawn ∧ PrivFits createDrawn ∧ KeyFits createDrawn ∧
    createDrawn.ports.entropy.map (fun a => (a.getD []).length) = requestSizes createDrawn.cfg ∧
    createDrawn.ports.time = [0x7FFFFFFF] :=
  by
  unfold PubFits PrivFits KeyFits
  decide +kernel

/-- The start of T14: the third request fails. -/
def createFailing : State :=
  { withTa with ports := ⟨[some (be 6 1), some (be 6 2), none], [], []⟩ }

theorem witness_TokCreateFailsWholly :
    suppliedLen createFailing.cfg ≤ 256 ∧ PubFits createFailing ∧ PrivFits createFailing ∧ KeyFits createFailing ∧
    2 < (requestSizes createFailing.cfg).length ∧
    [be 6 1, be 6 2].map List.length = (requestSizes createFailing.cfg).take 2 ∧
    createFailing.ports.entropy = [be 6 1, be 6 2].map some ++ none :: [] :=
  by
  unfold PubFits PrivFits KeyFits
  decide +kernel

theorem witness_TokGenerateRule :
    State.reset.tok.valid = false ∧ generateTa.tok.valid = true ∧ nextEntropy 2 (popTime generateTa) = some (be 2 0xAABB) ∧
    nextEntropy 2 (popTime { withTa with ports := ⟨[none], [], []⟩ }) = none :=
  by decide +kernel

theorem witness_generateTa_Inv : Inv generateTa :=
  ⟨rfl, by decide +kernel, by decide, rfl, by decide, rfl, fun _ => by decide, by decide, fun _ h => absurd h (by decide +revert)⟩

theorem witness_GeneratedOtpIsWellFormed :
    Inv generateTa ∧ ∃ t, exec .tokGenerate generateTa = .next t ∧ t.err = false :=
  ⟨witness_generateTa_Inv, _, rfl, by decide +kernel⟩

theorem witness_TokAdvanceRule :
    State.reset.tok.valid = false ∧ withTa.tok.valid = true :=
  by decide

theorem witness_AccessorsCopyTheirField :
    State.reset.tok.valid = false ∧ withTa.tok.valid = true ∧ Instr.tokExportKey ∈ [Instr.tokPubid, .tokExportKey, .tokExportPrivid] :=
  by decide

theorem witness_OtpValidateRule :
    State.reset.inLen ≠ 44 ∧ (input (be 43 0x63636363636363636363636363636363636363636363636363636363636363636363636363636363636363)).inLen ≠ 44 ∧
    (input (be 44 0x4363636363636363636363627272666B6C6E62696972696C6B646E656A6C636B656676646C766B64666E6876)).inLen = 44 ∧
    FirstOffender (· ∈ alphabet) (Claims.input (input (be 44 0x4363636363636363636363627272666B6C6E62696972696C6B646E656A6C636B656676646C766B64666E6876))) 0 ∧
    FirstOffender (· ∈ alphabet) (Claims.input (input (be 44 0x6363636363636363636363627272666B6C6E62696972696C6B646E656A6C636B656676646C766B64666E6878))) 43 ∧
    (input (be 44 0x6363636363636363636363627272666B6C6E62696972696C6B646E656A6C636B656676646C766B64666E6876)).inLen = 44 ∧ ∀ c ∈ Claims.input (input (be 44 0x6363636363636363636363627272666B6C6E62696972696C6B646E656A6C636B656676646C766B64666E6876)), c ∈ alphabet :=
  by
  unfold FirstOffender
  decide +kernel

theorem witness_OtpExtractPidRule :
    State.reset.inLen ≠ 44 ∧ (input (be 43 0x63636363636363636363636363636363636363636363636363636363636363636363636363636363636363)).inLen ≠ 44 ∧
    (input (be 44 0x4363636363636363636363627272666B6C6E62696972696C6B646E656A6C636B656676646C766B64666E6876)).inLen = 44 ∧
    FirstOffender (· ∈ alphabet) (Claims.input (input (be 44 0x4363636363636363636363627272666B6C6E62696972696C6B646E656A6C636B656676646C766B64666E6876))) 0 ∧
    FirstOffender (· ∈ alphabet) (Claims.input (input (be 44 0x6363636363636363636363627272666B6C6E62696972696C6B646E656A6C636B656676646C766B64666E6878))) 43 ∧
    (input (be 44 0x6363636363636363636363627272666B6C6E62696972696C6B646E656A6C636B656676646C766B64666E6876)).inLen = 44 ∧ ∀ c ∈ Claims.input (input (be 44 0x6363636363636363636363627272666B6C6E62696972696C6B646E656A6C636B656676646C766B64666E6876)), c ∈ alphabet :=
  by
  unfold FirstOffender
  decide +kernel

/-- The lines of a loop with a loop in them. -/
theorem encloses_nested : Encloses (host [.rep 0, .rep 2, .label 0, .endRep, .endRep]) [.rep 2, .label 0, .endRep] :=
  ⟨.loop (b := [.label 0]) (p := []) (.line ⟨nofun, nofun⟩ .nil) .nil, [], rfl⟩

/-- A loop that nothing closes encloses nothing. -/
theorem encloses_none (body : List HostStmt) : ¬ Encloses (host [.rep 2, .label 0]) body := by
  rintro ⟨-, rest, h⟩
  have : HostStmt.endRep ∈ [HostStmt.label 0] := (show [HostStmt.label 0] = _ from h) ▸ by simp
  simp at this

theorem witness_HostStatementsByTheirRules :
    0x3FF < 0x400 ∧ 0x400 ≤ 0x400 ∧
    Encloses (host [.rep 0, .rep 2, .label 0, .endRep, .endRep]) [.rep 2, .label 0, .endRep] ∧
    (∀ body, ¬ Encloses (host [.rep 2, .label 0]) body) ∧
    ({ host [] with loops := [(1, 2)] } : Agent).loops = (1, 1 + 1) :: [] ∧
    ({ host [] with loops := [(1, 0)] } : Agent).loops = (1, 0) :: [] ∧ (host []).loops = [] ∧
    ({ host [] with lastBusy := some false } : Agent).lastBusy = some false ∧
    polling.agent.lastBusy = some true ∧ .label 0 ∈ polling.agent.prog ∧ .label 1 ∉ polling.agent.prog ∧
    (host []).lastBusy = none :=
  ⟨by decide, by decide, encloses_nested, encloses_none, rfl, rfl, rfl, rfl, rfl, by decide, by decide, rfl⟩

end Sys2Proof.Tests
end

/-! The agent that moves next, in the words of the statements, and the proofs of the family 00_scope. -/

section

namespace Sys2Proof.Proofs

open Sys2Proof.Machine Sys2Proof.Claims

/-! ### The host's turn and the host's next statement (R17, R106, R335) -/

/-- The block waits while host steps are left before its step and the host still has a statement (R324, R369). -/
theorem blockNext_eq_false_iff (s : State) :
    blockNext s = false ↔ s.delay ≠ 0 ∧ s.agent.pos < s.agent.prog.length := by
  simp [blockNext, Agent.finished]

theorem step_eq_hostStep_of_hostTurn {s : State} (h : HostTurn s) : step s = hostStep s := by
  cases hp : s.pend with
  | none => exact step_idle hp
  | some w =>
    have hwait : s.delay ≠ 0 ∧ s.agent.pos < s.agent.prog.length := h.resolve_left (by simp [hp])
    exact step_waiting hp ((blockNext_eq_false_iff s).mpr hwait)

theorem hostStep_of_getElem?_eq_some {s : State} {st : HostStmt} (h : s.agent.prog[s.agent.pos]? = some st) :
    hostStep s = hostStmt st { s with delay := s.delay - 1 } := by
  simp [hostStep, h]

theorem hostStep_of_length_le {s : State} (h : s.agent.prog.length ≤ s.agent.pos) : hostStep s = .next s := by
  simp [hostStep, List.getElem?_eq_none h]

/-- Settles O6: the host moves in its turn, and an idle machine is always in the host's turn. -/
theorem hostTurnRunsTheNextStatement : Obligations.HostTurnRunsTheNextStatement := by
  unfold Obligations.HostTurnRunsTheNextStatement
  constructor
  · intro s st hturn hst
    exact (step_eq_hostStep_of_hostTurn hturn).trans (hostStep_of_getElem?_eq_some hst)
  · intro s hidle hend
    exact (step_eq_hostStep_of_hostTurn (.inl hidle)).trans (hostStep_of_length_le hend)

end Sys2Proof.Proofs
end

/-! The invariant of the block (O9, O10): the part of it that speaks of the buffers and the token is kept by every effect of a command, and the part that speaks of STATUS follows from how the command completes. -/

section

namespace Sys2Proof.Proofs

open Sys2Proof.Machine Sys2Proof.Claims

/-! ### What the invariant says of the buffers, the token and OUT_LEN -/

/-- The clauses of `Inv` that do not speak of STATUS or ERR_INFO. -/
structure DataInv (s : State) : Prop where
  memory : Memory.wf s.mem = true
  publicId : tokenWf s.tok = true
  cleared : tokenCleared s.tok = true
  out : outWf s

theorem dataInv_of_inv {s : State} (h : Inv s) : DataInv s := ⟨h.memory, h.publicId, h.cleared, h.out⟩

/-- Only the buffers, the token and OUT_LEN matter. -/
theorem DataInv.congr {s t : State} (h : DataInv s) (hmem : t.mem = s.mem) (htok : t.tok = s.tok)
    (hlen : t.outLen = s.outLen) : DataInv t := by
  obtain ⟨hm, hp, hc, ho⟩ := h
  refine ⟨hmem ▸ hm, htok ▸ hp, htok ▸ hc, ?_⟩
  unfold outWf at ho ⊢
  rwa [hmem, hlen]

/-- A token that exists and has a public_id of the alphabet meets R34, and R42 says nothing of it. -/
theorem DataInv.withToken {s : State} (h : DataInv s) {k : Token} (hv : k.valid = true)
    (hp : (fieldBytes k.publicId).all isMh = true) : DataInv { s with tok := k } :=
  ⟨h.memory, by simp [tokenWf, hp], by simp [tokenCleared, hv], h.out⟩

theorem publicId_isMh_of_tokenWf {k : Token} (h : tokenWf k = true) (hv : k.valid = true) :
    (fieldBytes k.publicId).all isMh = true := by
  simpa [tokenWf, hv] using h

/-- A token that changes neither its valid bit nor its public_id stays well formed. -/
theorem DataInv.updateToken {s : State} (h : DataInv s) (hv : s.tok.valid = true) {k : Token}
    (hk : k.valid = s.tok.valid) (hp : k.publicId = s.tok.publicId) : DataInv { s with tok := k } :=
  h.withToken (hk.trans hv) (hp ▸ publicId_isMh_of_tokenWf h.publicId hv)

/-- A string of at most 512 bytes written to OUT is written up to OUT_LEN (R36, R37). -/
theorem DataInv.writeOut {s : State} (h : DataInv s) {r : List Byte} (hr : r.length ≤ 512) :
    DataInv (writeOut r s) := by
  have hlen : (Machine.writeOut r s).outLen.toNat = r.length := by
    rw [writeOut_outLen, BitVec.toNat_ofNat]
    exact Nat.mod_eq_of_lt (by omega)
  refine ⟨Memory.wf_writeBytes r (by decide) (by simp only [Config.outBase, Config.windowSize]; omega) h.memory,
    h.publicId, h.cleared, ?_⟩
  unfold outWf
  rw [hlen, writeOut_mem]
  exact ⟨hr, fun i hi => by rw [Memory.read_writeBytes_inside r _ _ i hi]; rfl⟩

/-- Bytes written to IN stay in the buffers and unwrite nothing of OUT. -/
theorem DataInv.writeIn {s : State} (h : DataInv s) {a : Nat} {bs : List Byte} (hlo : 0x100 ≤ a)
    (hhi : a + bs.length ≤ 0x200) : DataInv { s with mem := Memory.writeBytes s.mem a bs } :=
  ⟨Memory.wf_writeBytes bs hlo (by simp only [Config.windowSize]; omega) h.memory, h.publicId, h.cleared,
    h.out.1, fun i hi => Memory.read_writeBytes_isSome bs _ _ _ (h.out.2 i hi)⟩

/-! ### Completion makes the rest of the invariant (R325, R326) -/

/-- Success fits the tables with detail 0 and info 0 only (R321). -/
theorem errorWf_success : errorWf .success 0 0 = true := by decide

theorem inv_complete {s : State} (h : DataInv s) : Inv (complete s) :=
  ⟨h.memory, h.publicId, h.cleared, rfl, errorWf_success, rfl, nofun, h.out⟩

theorem inv_raise {s : State} {x : CmdError} (hx : GoodError x) (h : DataInv s) : Inv (raise x s) :=
  ⟨h.memory, h.publicId, h.cleared, by simp [hx.1], hx.2, rfl, nofun, h.out⟩

/-- Every form of a command's next state meets the invariant. -/
theorem inv_of_result {i : Instr} {s t : State} (h : DataInv s) (hr : Result i s t) : Inv t := by
  have hasked (d : Nat) (p : Ports) : DataInv (asked d p s) := h.congr rfl rfl rfl
  cases hr with
  | error x d p hx => exact inv_raise hx (hasked d p)
  | generateFailed ts d p _ hv =>
    exact inv_raise (goodError_err0 (by decide) (by decide) (by decide)) ((hasked d p).updateToken hv rfl rfl)
  | plain d p => exact inv_complete (hasked d p)
  | bool b d p => exact inv_complete (h.congr rfl rfl rfl)
  | crc c d p => exact inv_complete (h.congr rfl rfl rfl)
  | int v d p => exact inv_complete (h.congr rfl rfl rfl)
  | out r d p _ hlen => exact inv_complete ((hasked d p).writeOut hlen)
  | create k d p _ hv _ _ hp => exact inv_complete ((hasked d p).withToken hv hp)
  | advance _ hv => exact inv_complete (h.updateToken hv rfl rfl)
  | generate ts rnd d p _ hv hrnd =>
    have htok : DataInv { asked d p s with tok := refreshed ts s.tok } := (hasked d p).updateToken hv rfl rfl
    have hlen : ((refreshed ts s.tok).otp rnd).length ≤ 512 := by rw [otp_length _ _ hrnd]; decide
    exact inv_complete ((htok.writeOut hlen).congr rfl rfl rfl)

/-! ### The host's step -/

/-- The model's own counters, the environment and the host are no part of the invariant, nor are OVR and the operands. -/
theorem inv_withOperands {s : State} (h : Inv s) (o : Bool) (l : BitVec 9) (a : Word) (c : Cfg) (d n : Nat)
    (p : Ports) (g : Agent) :
    Inv { s with ovr := o, inLen := l, arg := a, cfg := c, draws := d, delay := n, ports := p, agent := g } :=
  ⟨h.memory, h.publicId, h.cleared, h.errFlag, h.error, h.busyDone, h.clear, h.out⟩

/-- An accepted command clears what STATUS said of the last one (R77). -/
theorem inv_latchCommand {s : State} (h : DataInv s) (v : Word) : Inv (latchCommand v s) :=
  ⟨h.memory, h.publicId, h.cleared, rfl, errorWf_success, Bool.and_false _, fun _ => rfl, h.out⟩

theorem inv_withMem {s : State} (h : Inv s) {m : Memory} (hm : DataInv { s with mem := m }) : Inv { s with mem := m } :=
  ⟨hm.memory, h.publicId, h.cleared, h.errFlag, h.error, h.busyDone, h.clear, hm.out⟩

/-- Settles O10: nothing is pending, written or said, and there is no token. -/
theorem resetMeetsTheInvariant : Obligations.ResetMeetsTheInvariant :=
  ⟨rfl, rfl, by decide, rfl, errorWf_success, rfl, fun _ => by decide, by decide, fun i hi => absurd hi (Nat.not_lt_zero i)⟩

/-- Every form of a host step's next state meets the invariant. -/
theorem inv_of_hostResult {s t : State} (h : Inv s) (hr : HostResult s t) : Inv t := by
  cases hr with
  | agent d n g => exact inv_withOperands h s.ovr s.inLen s.arg s.cfg d n s.ports g
  | dropped n g => exact inv_withOperands h true s.inLen s.arg s.cfg s.draws n s.ports g
  | accept v d n p g => exact inv_withOperands (inv_latchCommand (dataInv_of_inv h) v) s.ovr s.inLen s.arg s.cfg d n p g
  | write o l a c m n g _ _ hm =>
    have hdata : DataInv { s with mem := m } := by
      obtain rfl | ⟨x, bs, rfl, hlo, hhi⟩ := hm
      · exact dataInv_of_inv h
      · exact (dataInv_of_inv h).writeIn hlo hhi
    exact inv_withOperands (inv_withMem h hdata) o l a c s.draws n s.ports g
  | reset g => exact inv_withOperands resetMeetsTheInvariant false 0 0 Cfg.zero s.draws 0 s.ports g

/-- Settles O9: by the forms of a step of the host and of the block. -/
theorem stepKeepsTheInvariant : Obligations.StepKeepsTheInvariant := by
  unfold Obligations.StepKeepsTheInvariant
  intro s t hinv hstep
  obtain ⟨-, hhost⟩ | ⟨i, w, -, -, hblock, -⟩ := step_cases hstep
  · exact inv_of_hostResult hinv hhost
  · exact inv_of_result (dataInv_of_inv hinv) hblock

end Sys2Proof.Proofs
end

/-! The secrets of the token (O18): every operation of the host and of the commands that do not name them commutes with their replacement. -/

section

namespace Sys2Proof.Proofs

open Sys2Proof.Machine Sys2Proof.Claims

/-! ### Replacing the secrets -/

/-- The state with other secrets. -/
def withSecrets (p : Vector Byte 6) (k : Vector Byte 16) (s : State) : State :=
  { s with tok := { s.tok with privateId := p, secretKey := k } }

theorem agreeButSecrets_iff {s t : State} : AgreeButSecrets s t ↔ ∃ p k, t = withSecrets p k s := by
  constructor
  · exact fun h => ⟨_, _, h⟩
  · rintro ⟨p, k, rfl⟩
    rfl

theorem agreeButSecrets_withSecrets (p : Vector Byte 6) (k : Vector Byte 16) (s : State) :
    AgreeButSecrets s (withSecrets p k s) := rfl

theorem agreeButSecrets_refl (s : State) : AgreeButSecrets s s := rfl

/-- Stops are kept; next states get other secrets. -/
def outcomeWithSecrets (p : Vector Byte 6) (k : Vector Byte 16) (o : Out) : Out :=
  match o with
  | .next s => .next (withSecrets p k s)
  | .fault f => .fault f
  | .refused r => .refused r

theorem sameButSecrets_of_eq (p : Vector Byte 6) (k : Vector Byte 16) {x y : Out} (h : y = outcomeWithSecrets p k x) :
    SameButSecrets x y := by
  subst h
  cases x with
  | next s => exact agreeButSecrets_withSecrets p k s
  | fault f => exact rfl
  | refused r => exact rfl

section

variable (p : Vector Byte 6) (k : Vector Byte 16) (s : State)

@[simp] theorem withSecrets_pend : (withSecrets p k s).pend = s.pend := rfl
@[simp] theorem withSecrets_cfg : (withSecrets p k s).cfg = s.cfg := rfl
@[simp] theorem withSecrets_agent : (withSecrets p k s).agent = s.agent := rfl
@[simp] theorem withSecrets_valid : (withSecrets p k s).tok.valid = s.tok.valid := rfl
@[simp] theorem withSecrets_busy : (withSecrets p k s).busy = s.busy := rfl
@[simp] theorem withSecrets_blockNext : blockNext (withSecrets p k s) = blockNext s := rfl
@[simp] theorem withSecrets_inLength : inLength (withSecrets p k s) = inLength s := rfl
@[simp] theorem withSecrets_argLength : argLength (withSecrets p k s) = argLength s := rfl
@[simp] theorem withSecrets_inBytes (n : Nat) : inBytes (withSecrets p k s) n = inBytes s n := rfl
@[simp] theorem withSecrets_inputString : inputString (withSecrets p k s) = inputString s := rfl
@[simp] theorem withSecrets_nextEntropy (n : Nat) : nextEntropy n (withSecrets p k s) = nextEntropy n s := rfl

/-! ### Bus accesses -/

/-- No bus read shows a secret (R33, R39). -/
theorem busRead_withSecrets (w : Width) (a : Nat) : busRead w a (withSecrets p k s) = busRead w a s := rfl

theorem writeRegister_withSecrets (a : Nat) (v : Word) :
    writeRegister a v (withSecrets p k s) = withSecrets p k (writeRegister a v s) := by
  unfold writeRegister
  split
  · rfl
  · split <;> rfl
  all_goals rfl

theorem writeIdle_withSecrets (w : Width) (a : Nat) (v : Word) :
    writeIdle w a v (withSecrets p k s) = withSecrets p k (writeIdle w a v s) := by
  unfold writeIdle
  split
  · exact writeRegister_withSecrets p k s a v
  · split <;> rfl

theorem busWrite_withSecrets (w : Width) (a : Nat) (v : Word) :
    busWrite w a v (withSecrets p k s) = ((busWrite w a v s).1, withSecrets p k (busWrite w a v s).2) := by
  unfold busWrite
  rw [withSecrets_busy, writeIdle_withSecrets]
  split
  · rfl
  · split <;> rfl

/-! ### The host -/

/-- Each statement of the host but the reset does the same whatever the secrets are. -/
theorem hostStmt_withSecrets {st : HostStmt} (h : st ≠ .assertReset) :
    hostStmt st (withSecrets p k s) = outcomeWithSecrets p k (hostStmt st s) := by
  cases st with
  | st w a v =>
    simp only [hostStmt, hostStore, busWrite_withSecrets]
    split <;> rfl
  | ld w a =>
    simp only [hostStmt, hostLoad, busRead_withSecrets]
    split <;> rfl
  | rep n =>
    simp only [hostStmt, hostRep]
    rw [withSecrets_agent]
    split <;> rfl
  | endRep =>
    simp only [hostStmt, hostEnd]
    rw [withSecrets_agent]
    split <;> rfl
  | label l => rfl
  | bneBusy l =>
    simp only [hostStmt, hostBranch]
    rw [withSecrets_agent]
    split
    · rfl
    · rfl
    · split <;> rfl
  | assertReset => exact absurd rfl h

/-- The reset leaves nothing of the secrets; every other statement keeps the difference. -/
theorem sameButSecrets_hostStep : SameButSecrets (hostStep s) (hostStep (withSecrets p k s)) := by
  cases hst : s.agent.prog[s.agent.pos]? with
  | none =>
    have hend := List.getElem?_eq_none_iff.mp hst
    rw [hostStep_of_length_le hend, hostStep_of_length_le (s := withSecrets p k s) hend]
    exact agreeButSecrets_withSecrets p k s
  | some st =>
    rw [hostStep_of_getElem?_eq_some hst, hostStep_of_getElem?_eq_some (s := withSecrets p k s) hst]
    by_cases h : st = .assertReset
    · subst h
      exact agreeButSecrets_refl _
    · exact sameButSecrets_of_eq p k (hostStmt_withSecrets p k { s with delay := s.delay - 1 } h)

/-! ### The commands -/

/-- A command on the input string whose effect keeps the difference. -/
theorem runString_withSecrets {α : Type} (f : List Byte → Except CmdError α) {w : α → State → State}
    (hw : ∀ a u, w a (withSecrets p k u) = withSecrets p k (w a u)) :
    runString f w (withSecrets p k s) = withSecrets p k (runString f w s) := by
  obtain ⟨h, hr⟩ | ⟨h, x, hx, hr⟩ | ⟨h, a, ha, hr⟩ := runString_cases f w s
  · rw [hr, runString_range f w (by simpa using h)]
    rfl
  · rw [hr, runString_error w (by simpa using h) (by simpa using hx)]
    rfl
  · rw [hr, runString_ok w (by simpa using h) (by simpa using ha)]
    exact congrArg complete (hw a (tick s))

theorem mhRandom_withSecrets : mhRandom (withSecrets p k s) = withSecrets p k (mhRandom s) := by
  unfold mhRandom
  rw [withSecrets_argLength, withSecrets_nextEntropy]
  split
  · rfl
  · split
    · rfl
    · split <;> rfl

theorem afterField_withSecrets (b : Bool) : afterField b (withSecrets p k s) = withSecrets p k (afterField b s) := by
  cases b <;> rfl

theorem publicIdOrDraw_withSecrets (b : Bool) (l : List Byte) :
    publicIdOrDraw b l (withSecrets p k s) = publicIdOrDraw b l s := rfl

theorem fieldOrDraw_withSecrets (b : Bool) (l : List Byte) (n : Nat) :
    fieldOrDraw b l n (withSecrets p k s) = fieldOrDraw b l n s := rfl

/-- A failing draw keeps the secrets of the old token; the commit replaces both by the same new ones. -/
theorem agreeButSecrets_drawAndCommit (c : Cfg) (f : Supplied) :
    AgreeButSecrets (drawAndCommit c f s) (drawAndCommit c f (withSecrets p k s)) := by
  simp only [drawAndCommit, afterField_withSecrets, publicIdOrDraw_withSecrets, fieldOrDraw_withSecrets,
    withSecrets_nextEntropy]
  cases publicIdOrDraw c.pubP f.pub s with
  | none => exact agreeButSecrets_withSecrets p k _
  | some pub =>
    cases fieldOrDraw c.privP f.priv 6 (afterField c.pubP s) with
    | none => exact agreeButSecrets_withSecrets p k _
    | some priv =>
      cases fieldOrDraw c.keyP f.key 16 (afterField c.privP (afterField c.pubP s)) with
      | none => exact agreeButSecrets_withSecrets p k _
      | some key =>
        cases nextEntropy 2 (afterField c.keyP (afterField c.privP (afterField c.pubP s))) with
        | none => exact agreeButSecrets_withSecrets p k _
        | some sb => exact agreeButSecrets_refl _

theorem agreeButSecrets_tokCreate : AgreeButSecrets (tokCreate s) (tokCreate (withSecrets p k s)) := by
  unfold tokCreate
  rw [withSecrets_cfg, withSecrets_inBytes]
  cases checkTotal s.cfg with
  | error x => exact agreeButSecrets_withSecrets p k (raise x s)
  | ok u =>
    dsimp only
    cases checkSupplied s.cfg (splitSupplied s.cfg (inBytes s s.cfg.total)) with
    | error x => exact agreeButSecrets_withSecrets p k (raise x (tick s))
    | ok u => exact agreeButSecrets_drawAndCommit p k (tick s) _ _

/-- A command that needs a token and whose effect keeps the difference. -/
theorem finish_checkToken_withSecrets {f : Unit → State → State}
    (hf : ∀ u, f () (withSecrets p k u) = withSecrets p k (f () u)) :
    finish (checkToken (withSecrets p k s)) f (withSecrets p k s) = withSecrets p k (finish (checkToken s) f s) := by
  cases hv : s.tok.valid with
  | false =>
    rw [checkToken_error hv, checkToken_error ((withSecrets_valid p k s).trans hv)]
    rfl
  | true =>
    rw [checkToken_ok hv, checkToken_ok ((withSecrets_valid p k s).trans hv)]
    exact congrArg complete (hf s)

/-- The commands that name a secret (R35, R39). -/
def namesSecret : List Instr := [.aesEnc, .tokGenerate, .tokExportKey, .tokExportPrivid]

/-- Every command that names no secret takes states that differ in the secrets to such states. -/
theorem sameButSecrets_exec {i : Instr} (hi : i ∉ namesSecret) :
    SameButSecrets (exec i s) (exec i (withSecrets p k s)) := by
  have hstring {α : Type} (f : List Byte → Except CmdError α) {w : α → State → State}
      (hw : ∀ a u, w a (withSecrets p k u) = withSecrets p k (w a u)) :
      AgreeButSecrets (runString f w s) (runString f w (withSecrets p k s)) :=
    agreeButSecrets_iff.mpr ⟨p, k, runString_withSecrets p k s f hw⟩
  have hout := fun f => hstring f (w := writeOut) fun _ _ => rfl
  have hint := fun f => hstring f (w := setResInt) fun _ _ => rfl
  have hbool := fun f => hstring f (w := setResBool) fun _ _ => rfl
  have hnone := fun f => hstring f (w := noEffect) fun _ _ => rfl
  cases i with
  | mhIsValid => exact hbool _
  | mhValidate => exact hnone _
  | mhValidateLen => exact hnone _
  | mhDecodeHex => exact hout _
  | mhDecodeInt => exact hint _
  | mhEncodeHex => exact hout _
  | mhEncodeBytes => exact hout _
  | mhDecodeBytes => exact hout _
  | mhRandom => exact agreeButSecrets_iff.mpr ⟨p, k, mhRandom_withSecrets p k s⟩
  | crc16 => exact hstring _ fun _ _ => rfl
  | crc16Verify => exact hbool _
  | tokCreate => exact agreeButSecrets_tokCreate p k s
  | tokAdvance => exact agreeButSecrets_iff.mpr ⟨p, k, finish_checkToken_withSecrets p k s fun _ => rfl⟩
  | tokPubid => exact agreeButSecrets_iff.mpr ⟨p, k, finish_checkToken_withSecrets p k s fun _ => rfl⟩
  | otpValidate => exact hint _
  | otpExtractPid => exact hout _
  | aesEnc | tokGenerate | tokExportKey | tokExportPrivid => exact absurd (by decide) hi

/-- The block's step on a word that is none of 0x30, 0x41, 0x44 and 0x45. -/
theorem sameButSecrets_blockStep {w : Word} (hw : w ≠ 0x30 ∧ w ≠ 0x41 ∧ w ≠ 0x44 ∧ w ≠ 0x45) :
    SameButSecrets (blockStep w s) (blockStep w (withSecrets p k s)) := by
  obtain ⟨haes, hgen, hkey, hpriv⟩ := hw
  unfold blockStep
  cases hd : decodeWord w with
  | error e => exact agreeButSecrets_withSecrets p k (raise illegalCommand s)
  | ok i =>
    refine sameButSecrets_exec p k s fun hi => ?_
    have hword := eq_encodeWord_of_decodeWord hd
    simp only [namesSecret, List.mem_cons, List.not_mem_nil, or_false] at hi
    obtain rfl | rfl | rfl | rfl := hi
    · exact haes hword
    · exact hgen hword
    · exact hkey hword
    · exact hpriv hword

end

/-- The block moves in its turn (R324, R369). -/
theorem blockTurn_of_blockNext {s : State} {w : Word} (hp : s.pend = some w) (hb : blockNext s = true) :
    BlockTurn s w :=
  ⟨hp, by simpa [blockNext, Agent.finished] using hb⟩

/-- Settles O18: the two runs take the same branch everywhere, for no condition and no reply depends on a secret. -/
theorem secretsLeaveOnlyByTheirCommands : Obligations.SecretsLeaveOnlyByTheirCommands := by
  unfold Obligations.SecretsLeaveOnlyByTheirCommands
  intro s t hagree
  obtain ⟨p, k, rfl⟩ := agreeButSecrets_iff.mp hagree
  refine ⟨fun w a => (busRead_withSecrets p k s w a).symm, fun hwords => ?_⟩
  have hpend := withSecrets_pend p k s
  have hnext := withSecrets_blockNext p k s
  obtain ⟨w, hp, hb, hs⟩ | ⟨hturn, hs⟩ := step_agent s
  · rw [hs, step_block (hpend.trans hp) (hnext.trans hb)]
    exact sameButSecrets_blockStep p k s (hwords w (blockTurn_of_blockNext hp hb))
  · have hs' : step (withSecrets p k s) = hostStep (withSecrets p k s) := by
      cases hp : s.pend with
      | none => exact step_idle (hpend.trans hp)
      | some w => exact step_waiting (hpend.trans hp) (hnext.trans (hturn.resolve_left (by simp [hp])))
    rw [hs, hs']
    exact sameButSecrets_hostStep p k s

end Sys2Proof.Proofs
end

/-! What a step can change (O11, O13, O15, O16, O53): the forms of a command's next state and of a host step's, field by field. -/

section

namespace Sys2Proof.Proofs

open Sys2Proof.Machine Sys2Proof.Claims

/-! ### The token (R35) -/

/-- The token that a command leaves: TOK_CREATE may write all of it, TOK_ADVANCE and TOK_GENERATE two fields each. -/
theorem tok_of_result {i : Instr} {s t : State} (h : Result i s t) :
    t.tok = s.tok ∨ i = .tokCreate ∨
      (i = .tokAdvance ∧ ∃ c u, t.tok = { s.tok with counter := c, sessionUse := u }) ∨
      (i = .tokGenerate ∧ ∃ u ts, t.tok = { s.tok with sessionUse := u, timestamp := ts }) := by
  cases h with
  | create _ _ _ hi => exact .inr (.inl hi)
  | advance hi => exact .inr (.inr (.inl ⟨hi, _, _, rfl⟩))
  | generate _ _ _ _ hi => exact .inr (.inr (.inr ⟨hi, _, _, rfl⟩))
  | generateFailed _ _ _ hi => exact .inr (.inr (.inr ⟨hi, _, _, rfl⟩))
  | error | plain | bool | crc | int | out => exact .inl rfl

/-- Only the reset input touches the token in a host step. -/
theorem tok_of_hostResult {s t : State} (h : HostResult s t) : t.tok = s.tok ∨ ResetNext s := by
  cases h with
  | reset _ hst => exact .inr hst
  | agent | dropped | accept | write => exact .inl rfl

theorem hostTurn_of_not_blockNext {s : State} (h : s.pend = none ∨ blockNext s = false) : HostTurn s :=
  h.imp_right (blockNext_eq_false_iff s).mp

/-- Settles O11: a step that is no reset leaves the token as it is, or runs one of the three commands. -/
theorem onlyTokenCommandsWriteTheToken : Obligations.OnlyTokenCommandsWriteTheToken := by
  unfold Obligations.OnlyTokenCommandsWriteTheToken
  intro s t hstep hreset
  have hcases : t.tok = s.tok ∨ s.pend = some 0x40 ∨
      (s.pend = some 0x42 ∧ ∃ c u, t.tok = { s.tok with counter := c, sessionUse := u }) ∨
      (s.pend = some 0x41 ∧ ∃ u ts, t.tok = { s.tok with sessionUse := u, timestamp := ts }) := by
    obtain ⟨hturn, hhost⟩ | ⟨i, w, hp, -, hblock, rfl | rfl⟩ := step_cases hstep
    · exact .inl ((tok_of_hostResult hhost).resolve_right fun h => hreset ⟨hostTurn_of_not_blockNext hturn, h⟩)
    · obtain h | rfl | ⟨rfl, h⟩ | ⟨rfl, h⟩ := tok_of_result hblock
      · exact .inl h
      · exact .inr (.inl hp)
      · exact .inr (.inr (.inl ⟨hp, h⟩))
      · exact .inr (.inr (.inr ⟨hp, h⟩))
    · exact .inl rfl
  obtain h | h | ⟨hp, c, u, h⟩ | ⟨hp, u, ts, h⟩ := hcases
  · simp [h]
  · simp [h]
  · simp [h, hp]
  · simp [h, hp]

/-! ### The result locations and the operands (R31, R36, R103) -/

section

variable {i : Instr} {s t : State}

theorem resBool_of_result (h : Result i s t) : t.resBool = s.resBool ∨ i = .mhIsValid ∨ i = .crc16Verify := by
  cases h with
  | bool _ _ _ hi => exact .inr hi
  | error | generateFailed | plain | crc | int | out | create | advance | generate => exact .inl rfl

theorem resCrc_of_result (h : Result i s t) : t.resCrc = s.resCrc ∨ i = .crc16 ∨ i = .tokGenerate := by
  cases h with
  | crc _ _ _ hi => exact .inr (.inl hi)
  | generate _ _ _ _ hi => exact .inr (.inr hi)
  | error | generateFailed | plain | bool | int | out | create | advance => exact .inl rfl

theorem resInt_of_result (h : Result i s t) :
    (t.resIntLo = s.resIntLo ∧ t.resIntHi = s.resIntHi) ∨ i = .mhDecodeInt ∨ i = .otpValidate := by
  cases h with
  | int _ _ _ hi => exact .inr hi
  | error | generateFailed | plain | bool | crc | out | create | advance | generate => exact .inl ⟨rfl, rfl⟩

theorem audit_of_result (h : Result i s t) :
    (t.resCounter = s.resCounter ∧ t.resSession = s.resSession ∧ t.resTimestamp = s.resTimestamp) ∨
      i = .tokGenerate := by
  cases h with
  | generate _ _ _ _ hi => exact .inr hi
  | error | generateFailed | plain | bool | crc | int | out | create | advance => exact .inl ⟨rfl, rfl, rfl⟩

/-- OUT and OUT_LEN: a command that writes OUT leaves a string of at most 512 bytes at its start. -/
theorem out_of_result (h : Result i s t) :
    (t.mem = s.mem ∧ t.outLen = s.outLen) ∨
      (i ∈ writesOut ∧ ∃ r : List Byte, r.length ≤ 512 ∧ t.mem = Memory.writeBytes s.mem 0x200 r) := by
  cases h with
  | out r _ _ hi hr =>
    refine .inr ⟨?_, r, hr, rfl⟩
    simp only [writesOut, List.mem_cons, List.not_mem_nil, or_false] at hi ⊢
    tauto
  | generate ts rnd _ _ hi _ hrnd =>
    exact .inr ⟨hi ▸ by decide, _, by rw [otp_length (refreshed ts s.tok) rnd hrnd]; decide, rfl⟩
  | error | generateFailed | plain | bool | crc | int | create | advance => exact .inl ⟨rfl, rfl⟩

/-- No command writes an operand, OVR or the host agent (R103). -/
theorem operands_of_result (h : Result i s t) :
    t.ovr = s.ovr ∧ t.inLen = s.inLen ∧ t.arg = s.arg ∧ t.cfg = s.cfg ∧ t.agent = s.agent := by
  cases h <;> exact ⟨rfl, rfl, rfl, rfl, rfl⟩

/-- A byte that a command changes lies in OUT, and the command is one that writes OUT. -/
theorem changed_byte_of_result (h : Result i s t) {a : Nat} (ha : Memory.read t.mem a ≠ Memory.read s.mem a) :
    i ∈ writesOut ∧ 0x200 ≤ a ∧ a < 0x400 := by
  obtain ⟨hmem, -⟩ | ⟨hi, r, hr, hmem⟩ := out_of_result h
  · exact absurd (by rw [hmem]) ha
  · have hinside : ¬ (a < 0x200 ∨ 0x200 + r.length ≤ a) := fun hout =>
      ha (by rw [hmem, Memory.read_writeBytes_outside r s.mem hout])
    exact ⟨hi, by omega, by omega⟩

end

/-- Every command's next state has one of the forms. -/
theorem result_of_exec {i : Instr} {s t : State} (h : exec i s = .next t) : Result i s t := by
  obtain ⟨u, hu, hr⟩ := exec_result i s
  rw [hu] at h
  cases h
  exact hr

/-- Settles O13: field by field over the forms of a command's next state. -/
theorem resultsChangeOnlyInTheirCommands : Obligations.ResultsChangeOnlyInTheirCommands := by
  unfold Obligations.ResultsChangeOnlyInTheirCommands
  intro i s t hexec
  have h := result_of_exec hexec
  refine ⟨(resBool_of_result h).resolve_left, (resCrc_of_result h).resolve_left, fun hne => ?_, fun hne => ?_,
    fun hne => ?_, fun a => changed_byte_of_result h, operands_of_result h⟩
  · exact (resInt_of_result h).resolve_left fun ⟨hlo, hhi⟩ => hne.elim (· hlo) (· hhi)
  · exact (audit_of_result h).resolve_left fun ⟨hc, hs, ht⟩ => hne.elim (· hc) (·.elim (· hs) (· ht))
  · obtain ⟨-, hlen⟩ | ⟨hi, -⟩ := out_of_result h
    · exact absurd hlen hne
    · exact hi

/-! ### OVR and BUSY (R25, R38) -/

/-- Settles O15: a command keeps OVR, and of the host's steps only a write to STATUS and the reset clear it. -/
theorem ovrIsClearedOnlyByWritingOne : Obligations.OvrIsClearedOnlyByWritingOne := by
  unfold Obligations.OvrIsClearedOnlyByWritingOne
  intro s t hstep hset hcleared
  have hne : t.ovr ≠ s.ovr := by simp [hset, hcleared]
  obtain ⟨hturn, hhost⟩ | ⟨i, w, -, -, hblock, -⟩ := step_cases hstep
  · cases hhost with
    | agent => exact absurd rfl hne
    | dropped => cases hcleared
    | accept => exact absurd rfl hne
    | write o _ _ _ _ _ _ hidle ho =>
      obtain ⟨v, hst, hbit, -⟩ := ho.resolve_left hne
      exact .inr ⟨hidle, v, hst, hbit⟩
    | reset _ hst => exact .inl ⟨hostTurn_of_not_blockNext hturn, hst⟩
  · exact absurd (operands_of_result hblock).1 hne

/-- Settles O16: of the host's steps only the accepted command latches a word, and a step of the block needs one. -/
theorem onlyACmdWriteMakesTheBlockBusy : Obligations.OnlyACmdWriteMakesTheBlockBusy := by
  unfold Obligations.OnlyACmdWriteMakesTheBlockBusy
  intro s t hstep hidle hbusy
  obtain ⟨-, hhost⟩ | ⟨i, w, hpend, -⟩ := step_cases hstep
  · cases hhost with
    | agent => exact absurd hidle hbusy
    | dropped => exact absurd hidle hbusy
    | accept v _ _ _ _ _ hst => exact ⟨v, hst, rfl, rfl⟩
    | write => exact absurd hidle hbusy
    | reset => exact absurd rfl hbusy
  · rw [hidle] at hpend
    cases hpend

/-! ### TOK_CREATE (R250, R257) -/

/-- TOK_CREATE fails and leaves the token, or commits a token of the alphabet with counter 1 and session_use 0. -/
theorem result_tokCreate {s t : State} (h : Result .tokCreate s t) :
    (t.err = true ∧ t.tok = s.tok) ∨
      (t.err = false ∧ t.tok.valid = true ∧ t.tok.counter = 1 ∧ t.tok.sessionUse = 0 ∧
        (fieldBytes t.tok.publicId).all isMh = true) := by
  cases h with
  | error => exact .inl ⟨rfl, rfl⟩
  | create k _ _ _ hv hc hu hp => exact .inr ⟨rfl, hv, hc, hu, hp⟩
  | generateFailed _ _ _ hi | crc _ _ _ hi | advance hi | generate _ _ _ _ hi => cases hi
  | plain _ _ hi | bool _ _ _ hi | int _ _ _ hi => obtain hi | hi := hi <;> cases hi
  | out _ _ _ hi => exact absurd hi (by decide)

/-- A completed command is no longer pending (R324). -/
theorem completed_of_result {i : Instr} {s t : State} (h : Result i s t) : t.pend = none ∧ t.done = true := by
  cases h <;> exact ⟨rfl, rfl⟩

/-- Settles O53: by the two forms that TOK_CREATE's next state can have. -/
theorem tokCreateIsAllOrNothing : Obligations.TokCreateIsAllOrNothing := by
  unfold Obligations.TokCreateIsAllOrNothing
  intro s
  obtain ⟨t, hexec, h⟩ := exec_result .tokCreate s
  obtain ⟨hpend, hdone⟩ := completed_of_result h
  obtain ⟨hovr, hinLen, harg, hcfg, -⟩ := operands_of_result h
  have hbool := (resBool_of_result h).resolve_right (by decide)
  have hcrc := (resCrc_of_result h).resolve_right (by decide)
  obtain ⟨hlo, hhi⟩ := (resInt_of_result h).resolve_right (by decide)
  obtain ⟨hcounter, hsession, hstamp⟩ := (audit_of_result h).resolve_right (by decide)
  obtain ⟨hmem, hlen⟩ := (out_of_result h).resolve_right fun hout => absurd hout.1 (by decide)
  refine ⟨t, hexec, hpend, hdone, ?_, ?_, hmem, hlen, hbool, hcrc, hlo, hhi, hcounter, hsession, hstamp, hinLen, harg,
    hcfg, hovr⟩
  · intro herr
    obtain ⟨-, htok⟩ | ⟨hok, -⟩ := result_tokCreate h
    · exact htok
    · simp [herr] at hok
  · intro hok
    obtain ⟨herr, -⟩ | ⟨-, hv, hc, hu, hp⟩ := result_tokCreate h
    · simp [hok] at herr
    · exact ⟨hv, hc, hu, fun c hmem => (isMh_iff c).mp (List.all_eq_true.mp hp c hmem)⟩

end Sys2Proof.Proofs
end

/-! The register window while idle (O22, O24, O25), the input string (O28) and the state after reset (O29). -/

section

namespace Sys2Proof.Proofs

open Sys2Proof.Machine Sys2Proof.Claims

/-! ### Which accesses fit (R71, R72) -/

/-- The bus takes exactly the accesses that are no misfit. -/
theorem accessWf_iff (w : Width) (a : Nat) : accessWf w a = true ↔ ¬ Misfit w a := by
  unfold accessWf Misfit
  by_cases h : a < Config.inBase
  · have h' : a < 0x100 := h
    cases w <;> simp [h', show ¬ 0x100 ≤ a by omega]
  · have h' : ¬ a < 0x100 := h
    cases w <;> simp [h', show 0x100 ≤ a by omega, Width.bytes, Nat.mod_one]

theorem accessWf_register {a : Nat} (ha : a < 0x100) (h4 : a % 4 = 0) : accessWf .word a = true := by
  simp [accessWf, ha, h4]

/-! ### Writes (R24, R76) -/

section

variable {s : State} (h : s.pend = none)

include h

theorem busy_eq_false : s.busy = false := by simp [State.busy, h]

/-- A write that fits is done and answered while idle. -/
theorem busWrite_idle {w : Width} {a : Nat} (hw : accessWf w a = true) (v : Word) :
    busWrite w a v s = (.ok, writeIdle w a v s) := by
  simp [busWrite, hw, busy_eq_false h]

theorem busWrite_register {a : Nat} (ha : a < 0x100) (h4 : a % 4 = 0) (v : Word) :
    busWrite .word a v s = (.ok, writeRegister a v s) := by
  simp [busWrite_idle h (accessWf_register ha h4), writeIdle, ha]

end

/-- Read-only registers and reserved offsets ignore a write. -/
theorem writeRegister_ignored {a : Nat} (ha : 0x014 ≤ a) (v : Word) (s : State) : writeRegister a v s = s := by
  unfold writeRegister
  split
  case h_6 => rfl
  all_goals omega

/-- OVR is write-one-to-clear (R25). -/
theorem writeRegister_status (v : Word) (s : State) :
    writeRegister 0x004 v s = if v.getLsbD 4 then { s with ovr := false } else s := rfl

/-- The host cannot write OUT. -/
theorem writeIdle_out {a : Nat} (ha : 0x200 ≤ a) (w : Width) (v : Word) (s : State) : writeIdle w a v s = s := by
  simp [writeIdle, show ¬ a < 0x100 by omega, show ¬ a < 0x200 by omega]

theorem extractLsb'_eq_ofNat {n : Nat} (v : BitVec n) (lo len : Nat) :
    v.extractLsb' lo len = BitVec.ofNat len (v.toNat / 2 ^ lo) :=
  BitVec.eq_of_toNat_eq (by rw [toNat_extract_eq, BitVec.toNat_ofNat])

theorem getLsbD_eq_toNat_div {n : Nat} (v : BitVec n) (i : Nat) : v.getLsbD i = (v.toNat / 2 ^ i % 2 == 1) := by
  rw [← BitVec.testBit_toNat, Nat.testBit_eq_decide_div_mod_eq]
  rfl

/-- CFG's used bits by their places (R28). -/
theorem cfg_ofWord_eq (v : Word) : Cfg.ofWord v =
    { pubP := v.toNat % 2 == 1, privP := v.toNat / 2 % 2 == 1, keyP := v.toNat / 4 % 2 == 1
      pubLen := BitVec.ofNat 8 (v.toNat / 2 ^ 8), privLen := BitVec.ofNat 8 (v.toNat / 2 ^ 16)
      keyLen := BitVec.ofNat 8 (v.toNat / 2 ^ 24) } := by
  simp only [Cfg.ofWord, extractLsb'_eq_ofNat, getLsbD_eq_toNat_div, Nat.pow_zero, Nat.div_one, Nat.pow_one, Nat.reducePow]

/-- Settles O22: each offset's arm of the register write. -/
theorem idleRegisterWrites : Obligations.IdleRegisterWrites := by
  unfold Obligations.IdleRegisterWrites
  intro s v h
  refine ⟨?_, ?_, ?_, ?_, fun a ha ha' h4 => ?_, fun w a ha _ hfit => ?_⟩
  · rw [busWrite_register h (by decide) (by decide)]
    simp [writeRegister, extractLsb'_eq_ofNat]
  · rw [busWrite_register h (by decide) (by decide)]
    rfl
  · rw [busWrite_register h (by decide) (by decide), ← cfg_ofWord_eq]
    rfl
  · rw [busWrite_register h (by decide) (by decide)]
    rw [writeRegister_status]
    cases v.getLsbD 4 <;> simp
  · rw [busWrite_register h ha' h4, writeRegister_ignored ha]
  · rw [busWrite_idle h ((accessWf_iff w a).mpr hfit), writeIdle_out ha]

/-! ### Reads (R23 to R32, R73, R75) -/

theorem busRead_register {s : State} (h : s.pend = none) {a : Nat} (ha : a < 0x100) (h4 : a % 4 = 0) :
    busRead .word a s = .data (registerValue s a) := by
  simp [busRead, accessWf_register ha h4, busy_eq_false h, ha]

theorem busRead_buffer {s : State} (h : s.pend = none) {w : Width} {a : Nat} (ha : 0x100 ≤ a)
    (hw : accessWf w a = true) : busRead w a s = .data (valueOfBytes (bufferBytes s a w.bytes)) := by
  simp [busRead, hw, busy_eq_false h, show ¬ a < 0x100 by omega]

/-- Reserved offsets read 0 (R88). -/
theorem registerValue_reserved {a : Nat} (ha : 0x048 ≤ a) (s : State) : registerValue s a = 0 := by
  unfold registerValue
  split
  case h_18 => rfl
  all_goals omega

@[simp] theorem bit_toNat (b : Bool) : (bit b).toNat = b.toNat := by cases b <;> rfl

theorem bit_zeroExtend (b : Bool) : (bit b).zeroExtend 32 = BitVec.ofNat 32 b.toNat := by cases b <;> rfl

theorem zeroExtend_eq_ofNat {n : Nat} (x : BitVec n) : x.zeroExtend 32 = BitVec.ofNat 32 x.toNat :=
  (BitVec.ofNat_toNat 32 x).symm

/-- CFG as a number, its fields in their places (R28). -/
theorem cfg_toWord_toNat (c : Cfg) : c.toWord.toNat = c.pubP.toNat + 2 * c.privP.toNat + 4 * c.keyP.toNat +
    2 ^ 8 * c.pubLen.toNat + 2 ^ 16 * c.privLen.toNat + 2 ^ 24 * c.keyLen.toNat := by
  simp only [Cfg.toWord, toNat_append_eq, bit_toNat, BitVec.ofNat_eq_ofNat, BitVec.toNat_ofNat]
  omega

/-- STATUS as a number, its fields in their places (R25). -/
theorem statusWord_toNat (s : State) : (statusWord s).toNat = s.pend.isSome.toNat + 2 * s.done.toNat + 4 * s.err.toNat +
    8 * s.tok.valid.toNat + 16 * s.ovr.toNat + 2 ^ 8 * s.errCode.code.toNat + 2 ^ 16 * s.errDetail.toNat := by
  simp only [statusWord, toNat_append_eq, bit_toNat, BitVec.ofNat_eq_ofNat, BitVec.toNat_ofNat, State.busy]
  omega

theorem eq_ofNat_of_toNat_eq {n : Nat} {x : BitVec n} {k : Nat} (h : x.toNat = k) : x = BitVec.ofNat n k := by
  rw [← h, BitVec.ofNat_toNat, BitVec.setWidth_eq]

/-- The bytes of an access as one value (R73). -/
theorem valueOfBytes_eq_littleEndian {bs : List Byte} (h : bs.length ≤ 4) :
    valueOfBytes bs = BitVec.ofNat 32 (littleEndian bs) := by
  apply eq_ofNat_of_toNat_eq
  rw [valueOfBytes, wordOfBytes_toNat]
  match bs, h with
  | [], _ => rfl
  | [b0], _ => simp [littleEndian]
  | [b0, b1], _ => simp [littleEndian]
  | [b0, b1, b2], _ => simp [littleEndian]; omega
  | [b0, b1, b2, b3], _ => simp [littleEndian]; omega

/-- A read of bytes that have all been written answers their value. -/
theorem busRead_written {s : State} (h : s.pend = none) {w : Width} {a : Nat} {bs : List Byte} (ha : 0x100 ≤ a)
    (hfit : ¬ Misfit w a) (hlen : bs.length = w.bytes)
    (hbs : ∀ k, k < w.bytes → Memory.read s.mem (a + k) = some (bs.getD k 0)) :
    busRead w a s = .data (BitVec.ofNat 32 (littleEndian bs)) := by
  have hread : bufferBytes s a bs.length = bs := bufferBytes_of_written fun i hi => by
    rw [hbs i (hlen ▸ hi), List.getD_eq_getElem bs 0 hi]
  rw [busRead_buffer h ha ((accessWf_iff w a).mpr hfit), ← hlen, hread, valueOfBytes_eq_littleEndian]
  rw [hlen]
  cases w <;> decide

/-- Settles O24: each offset's arm of the register read, and the bytes of a buffer. -/
theorem idleRegisterReads : Obligations.IdleRegisterReads := by
  unfold Obligations.IdleRegisterReads
  intro s h
  have reads {a : Nat} {v : Word} (hv : registerValue s a = v) (ha : a < 0x100 := by decide)
      (h4 : a % 4 = 0 := by decide) : busRead .word a s = .data v := hv ▸ busRead_register h ha h4
  exact ⟨reads rfl, reads (zeroExtend_eq_ofNat _), reads rfl, reads (eq_ofNat_of_toNat_eq (cfg_toWord_toNat _)),
    reads (zeroExtend_eq_ofNat _), reads rfl, reads (bit_zeroExtend _), reads (zeroExtend_eq_ofNat _), reads rfl,
    reads rfl, reads (zeroExtend_eq_ofNat _), reads (zeroExtend_eq_ofNat _), reads (zeroExtend_eq_ofNat _),
    reads (zeroExtend_eq_ofNat _), reads (zeroExtend_eq_ofNat _), reads (zeroExtend_eq_ofNat _),
    reads (zeroExtend_eq_ofNat _), fun a ha ha' h4 => reads (registerValue_reserved ha s) ha' h4,
    fun w a bs ha _ hfit hlen hbs => busRead_written h ha hfit hlen hbs⟩

/-- STATUS is read busy or idle (R79). -/
theorem busRead_status (s : State) : busRead .word 0x004 s = .data (statusWord s) := by
  simp [busRead, accessWf, isResult, registerValue, Config.inBase, Config.outBase]

/-- Settles O25: the word by its fields' weights. -/
theorem statusReadsItsFields : Obligations.StatusReadsItsFields := by
  unfold Obligations.StatusReadsItsFields
  intro s
  refine ⟨?_, rfl⟩
  rw [busRead_status, eq_ofNat_of_toNat_eq (statusWord_toNat s)]

/-! ### The input string (R134) -/

/-- Byte `i` of a read of the buffers. -/
theorem bufferBytes_getD (s : State) (a : Nat) {n i : Nat} (h : i < n) :
    (bufferBytes s a n).getD i 0 = bufferByte s (a + i) := by
  rw [List.getD_eq_getElem _ _ (by simpa using h)]
  simp [bufferBytes]

/-- Settles O28: byte by byte, written or not. -/
theorem inputStringIsReadFromIn : Obligations.InputStringIsReadFromIn := by
  unfold Obligations.InputStringIsReadFromIn
  intro s
  refine ⟨inputString_length s, fun i hi => ?_⟩
  have hbyte : (Claims.input s).getD i 0 = bufferByte s (0x100 + i) := bufferBytes_getD s 0x100 hi
  rw [hbyte]
  cases hread : Memory.read s.mem (0x100 + i) with
  | some b => exact bufferByte_of_written hread
  | none => simp [bufferByte, hread]

/-! ### The state after reset (R42) -/

/-- Without a token the commands that need one fail with NoToken, whatever else is wrong (R274). -/
theorem exec_without_token {i : Instr} (hi : i ∈ needsToken) {s : State} (hv : s.tok.valid = false) :
    exec i s = .next (failed .noToken 0 0 s) := by
  have hcheck := checkToken_error hv
  simp only [needsToken, List.mem_cons, List.not_mem_nil, or_false] at hi
  obtain rfl | rfl | rfl | rfl | rfl | rfl := hi
  · simp only [exec, execAesEnc, aesEnc, hcheck]
    rfl
  · simp only [exec, execTokGenerate, tokGenerate, hcheck]
    rfl
  · simp only [exec, execTokAdvance, hcheck]
    rfl
  · simp only [exec, execTokPubid, exportField, hcheck]
    rfl
  · simp only [exec, execTokExportKey, exportField, hcheck]
    rfl
  · simp only [exec, execTokExportPrivid, exportField, hcheck]
    rfl

/-- Every register's reset value is 0 (R23, R42). -/
theorem registerValue_reset (a : Nat) : registerValue State.reset a = 0 := by
  unfold registerValue
  split <;> rfl

/-- Settles O29: every register's value, the empty memory and the zero token of the reset state. -/
theorem resetLeavesTheResetValues : Obligations.ResetLeavesTheResetValues := by
  unfold Obligations.ResetLeavesTheResetValues
  refine ⟨fun a ha h4 => ?_, rfl, rfl, rfl, rfl, rfl, rfl, rfl, rfl, rfl, Memory.read_nil,
    fun i hi => exec_without_token hi rfl⟩
  rw [busRead_register rfl ha h4, registerValue_reset]

end Sys2Proof.Proofs
end

/-! Bus accesses that fit or do not (O19), the window while a command is pending (O14, O21, O26), accepted commands (O20), stores to IN (O23) and loads (O27). -/

section

namespace Sys2Proof.Proofs

open Sys2Proof.Machine Sys2Proof.Claims

/-! ### Bus errors (R71, R72) -/

theorem accessWf_eq_false_iff (w : Width) (a : Nat) : accessWf w a = false ↔ Misfit w a := by
  rw [← Bool.not_eq_true, accessWf_iff, not_not]

theorem busRead_misfit {w : Width} {a : Nat} (h : Misfit w a) (s : State) : busRead w a s = .busError := by
  simp [busRead, (accessWf_eq_false_iff w a).mpr h]

theorem busWrite_misfit {w : Width} {a : Nat} (h : Misfit w a) (v : Word) (s : State) :
    busWrite w a v s = (.busError, s) := by
  simp [busWrite, (accessWf_eq_false_iff w a).mpr h]

/-- A read that fits answers data, whatever the block does. -/
theorem busRead_data {w : Width} {a : Nat} (h : ¬ Misfit w a) (s : State) : ∃ d, busRead w a s = .data d := by
  simp only [busRead, (accessWf_iff w a).mpr h, Bool.not_true, Bool.false_eq_true, if_false]
  split
  · exact ⟨_, rfl⟩
  · split <;> exact ⟨_, rfl⟩

theorem busy_eq_true {s : State} (h : s.pend ≠ none) : s.busy = true := Option.isSome_iff_ne_none.mpr h

/-- While a command is pending a write that fits is dropped (R78). -/
theorem busWrite_busy {s : State} (hp : s.pend ≠ none) {w : Width} {a : Nat} (h : ¬ Misfit w a) (v : Word) :
    busWrite w a v s = (.ok, { s with ovr := true }) := by
  simp [busWrite, (accessWf_iff w a).mpr h, busy_eq_true hp]

/-- Settles O19: a write that fits is done while idle and dropped while busy, and answered ok in both cases. -/
theorem misfitAccessIsABusError : Obligations.MisfitAccessIsABusError := by
  unfold Obligations.MisfitAccessIsABusError
  intro w a v s _
  refine ⟨fun h => ⟨busRead_misfit h s, busWrite_misfit h v s⟩, fun h => ⟨busRead_data h s, ?_⟩⟩
  by_cases hp : s.pend = none
  · rw [busWrite_idle hp ((accessWf_iff w a).mpr h)]
  · rw [busWrite_busy hp h]

/-- Settles O21: by the two forms of a write while a command is pending. -/
theorem busyWritesAreDropped : Obligations.BusyWritesAreDropped := by
  unfold Obligations.BusyWritesAreDropped
  intro s w a v hp _
  exact ⟨fun h => busWrite_busy hp h v, fun h => busWrite_misfit h v s⟩

/-- Settles O20: CMD's arm of the register write, which looks at no bit of the value. -/
theorem cmdWriteAcceptsACommand : Obligations.CmdWriteAcceptsACommand := by
  unfold Obligations.CmdWriteAcceptsACommand
  intro s v h
  exact ⟨nextLatency s, busWrite_register h (by decide) (by decide) v⟩

/-! ### A pending command's operands (R78, R83) -/

/-- Settles O14: the only forms of a host step with a command pending are a move of the host, a dropped write and the reset. -/
theorem pendingCommandKeepsItsOperands : Obligations.PendingCommandKeepsItsOperands := by
  unfold Obligations.PendingCommandKeepsItsOperands
  intro s t w hp hturn hreset hstep
  have hbusy : s.pend ≠ none := by simp [hp]
  have hwait : blockNext s = false := (blockNext_eq_false_iff s).mpr (hturn.resolve_left hbusy)
  obtain ⟨-, hhost⟩ | ⟨-, -, -, hblock, -⟩ := step_cases hstep
  · cases hhost with
    | agent => exact ⟨hp, rfl, rfl, rfl, rfl, rfl, rfl, rfl, id⟩
    | dropped => exact ⟨hp, rfl, rfl, rfl, rfl, rfl, rfl, rfl, fun _ => rfl⟩
    | accept _ _ _ _ _ hidle => exact absurd hidle hbusy
    | write _ _ _ _ _ _ _ hidle => exact absurd hidle hbusy
    | reset _ hst => exact absurd hst hreset
  · simp [hwait] at hblock

/-! ### Reads while busy (R79) -/

theorem isResult_iff (a : Nat) : isResult a = true ↔ (0x014 ≤ a ∧ a ≤ 0x044) ∨ 0x200 ≤ a := by
  simp [isResult]

/-- A result location reads as the draw of the read's number. -/
theorem busRead_result {s : State} (hp : s.pend ≠ none) {w : Width} {a : Nat} (h : ¬ Misfit w a)
    (hr : isResult a = true) : busRead w a s = .data (truncateTo w (Config.busyRead s.draws)) := by
  simp [busRead, (accessWf_iff w a).mpr h, busy_eq_true hp, hr]

/-- Every other register reads as it stands, busy or idle. -/
theorem busRead_register_of_not_result {w : Width} {a : Nat} (h : ¬ Misfit w a) (hr : isResult a = false)
    (ha : a < 0x100) (s : State) : busRead w a s = .data (registerValue s a) := by
  simp [busRead, (accessWf_iff w a).mpr h, hr, ha]

/-- IN reads as it stands, busy or idle. -/
theorem busRead_in {w : Width} {a : Nat} (h : ¬ Misfit w a) (ha : 0x100 ≤ a) (ha' : a < 0x200) (s : State) :
    busRead w a s = .data (valueOfBytes (bufferBytes s a w.bytes)) := by
  have hr : isResult a = false := by rw [← Bool.not_eq_true, isResult_iff]; omega
  simp [busRead, (accessWf_iff w a).mpr h, hr, show ¬ a < 0x100 by omega]

/-- STATUS alone shows whether a command is pending. -/
theorem registerValue_withPend {a : Nat} (ha : a ≠ 0x004) (p : Option Word) (s : State) :
    registerValue { s with pend := p } a = registerValue s a := by
  unfold registerValue
  split
  case h_1 => exact absurd rfl ha
  all_goals rfl

/-- Settles O26: an operand or a reserved offset is no result location, and no result location shows what stands there. -/
theorem busyReads : Obligations.BusyReads := by
  unfold Obligations.BusyReads
  intro s w a hp hfit
  have notResult (ha : a < 0x014 ∨ 0x044 < a ∧ a < 0x200) : isResult a = false := by
    rw [← Bool.not_eq_true, isResult_iff]; omega
  refine ⟨fun ha => ?_, fun ha => ?_, fun ha t hpt hdraws => ?_, fun ha ha' => ?_⟩
  · exact busRead_register_of_not_result hfit (notResult (by omega)) (by omega) s
  · obtain ⟨ha, hne⟩ | ⟨ha, ha'⟩ := ha
    · have hread := busRead_register_of_not_result hfit (notResult (.inl ha)) (by omega)
      rw [hread, hread, registerValue_withPend hne none s]
    · rw [busRead_in hfit ha ha', busRead_in hfit ha ha']
      rfl
  · have hr : isResult a = true := by rw [isResult_iff]; omega
    rw [busRead_result hp hfit hr, busRead_result hpt hfit hr, hdraws]
  · rw [busRead_register_of_not_result hfit (notResult (by omega)) ha' s, registerValue_reserved ha]

/-! ### Stores to IN (R73, R76) -/

/-- The bytes that an access stores. -/
def storedBytes (w : Width) (v : Word) : List Byte := (bytesOfWord v).take w.bytes

theorem writeIdle_in {a : Nat} (ha : 0x100 ≤ a) (ha' : a < 0x200) (w : Width) (v : Word) (s : State) :
    writeIdle w a v s = { s with mem := Memory.writeBytes s.mem a (storedBytes w v) } := by
  simp [writeIdle, storedBytes, ha', show ¬ a < 0x100 by omega]

@[simp] theorem storedBytes_length (w : Width) (v : Word) : (storedBytes w v).length = w.bytes := by
  cases w <;> rfl

/-- Byte `k` of a word, little-endian. -/
theorem bytesOfWord_getElem (v : Word) (k : Nat) (hk : k < (bytesOfWord v).length) :
    (bytesOfWord v)[k] = BitVec.ofNat 8 (v.toNat / 2 ^ (8 * k)) := by
  rw [← extractLsb'_eq_ofNat]
  match k, hk with
  | 0, _ | 1, _ | 2, _ | 3, _ => rfl

theorem storedBytes_getElem (w : Width) (v : Word) (k : Nat) (hk : k < (storedBytes w v).length) :
    (storedBytes w v)[k] = BitVec.ofNat 8 (v.toNat / 2 ^ (8 * k)) := by
  simp only [storedBytes, List.getElem_take, bytesOfWord_getElem]

/-- The stored bytes are the value's low bytes. -/
theorem littleEndian_storedBytes (w : Width) (v : Word) :
    littleEndian (storedBytes w v) = v.toNat % 2 ^ (8 * w.bytes) := by
  have hv := v.isLt
  cases w <;>
    simp only [storedBytes, bytesOfWord, Width.bytes, List.take_succ_cons, List.take_zero, littleEndian, toNat_extract_eq] <;>
    omega

theorem not_misfit_byte {a : Nat} (ha : 0x100 ≤ a) : ¬ Misfit .byte a := by
  rw [← accessWf_iff]
  simp [accessWf, Width.bytes, Nat.mod_one, show ¬ a < 0x100 by omega]

/-- A byte that has been written reads as it was written. -/
theorem busRead_written_byte {s : State} (h : s.pend = none) {a : Nat} {b : Byte} (ha : 0x100 ≤ a)
    (hb : Memory.read s.mem a = some b) : busRead .byte a s = .data (BitVec.ofNat 32 b.toNat) := by
  refine busRead_written (bs := [b]) h ha (not_misfit_byte ha) rfl fun k hk => ?_
  obtain rfl : k = 0 := Nat.lt_one_iff.mp hk
  exact hb

/-- Settles O23: by reading after writing, inside and outside the stored bytes. -/
theorem inWritesAreLittleEndian : Obligations.InWritesAreLittleEndian := by
  unfold Obligations.InWritesAreLittleEndian
  intro s w a v h ha ha' hfit
  have hinside (k : Nat) (hk : k < w.bytes) : Memory.read (Memory.writeBytes s.mem a (storedBytes w v)) (a + k) =
      some (BitVec.ofNat 8 (v.toNat / 2 ^ (8 * k))) := by
    rw [Memory.read_writeBytes_inside _ _ _ _ (by simpa using hk), storedBytes_getElem]
  have hidle : ({ s with mem := Memory.writeBytes s.mem a (storedBytes w v) } : State).pend = none := h
  refine ⟨Memory.writeBytes s.mem a (storedBytes w v), ?_, hinside, fun b hb => ?_, ?_, fun k hk => ?_⟩
  · rw [busWrite_idle h ((accessWf_iff w a).mpr hfit), writeIdle_in ha ha']
  · exact Memory.read_writeBytes_outside _ _ (by simpa using hb)
  · rw [← littleEndian_storedBytes]
    refine busRead_written hidle ha hfit (storedBytes_length w v) fun k hk => ?_
    have hk' : k < (storedBytes w v).length := by simpa using hk
    rw [List.getD_eq_getElem _ _ hk', storedBytes_getElem]
    exact hinside k hk
  · rw [busRead_written_byte hidle (by omega) (hinside k hk), BitVec.toNat_ofNat]

/-! ### Loads (R75, R81, R106) -/

/-- Bit 0 of STATUS is BUSY (R25, R38). -/
theorem statusWord_getLsbD_zero (s : State) : (statusWord s).getLsbD 0 = s.pend.isSome := by
  rw [getLsbD_eq_toNat_div, statusWord_toNat]
  cases s.pend.isSome <;> simp <;> omega

/-- What a load lets `bne_busy` see: BUSY by an `ld32 STATUS`, nothing new by any other load. -/
theorem seenBusy_busRead (w : Width) (a : Nat) (s : State) (old : Option Bool) :
    seenBusy w a (busRead w a s) old = if w = .word ∧ a = 0x004 then some s.pend.isSome else old := by
  split
  case isTrue h =>
    obtain ⟨rfl, rfl⟩ := h
    rw [busRead_status, ← statusWord_getLsbD_zero]
    rfl
  case isFalse h => exact seenBusy_other h _ old

theorem hostLoad_window {a : Nat} (ha : a < 0x400) (w : Width) (s : State) :
    hostLoad w a s = .next { s with draws := s.draws + 1, agent := afterLoad w a s } := by
  simp only [hostLoad, ha, if_true, seenBusy_busRead]
  rfl

theorem busRead_register_of_fit {s : State} (h : s.pend = none) {w : Width} {a : Nat} (hfit : ¬ Misfit w a)
    (ha : a < 0x100) : busRead w a s = .data (registerValue s a) := by
  simp [busRead, (accessWf_iff w a).mpr hfit, busy_eq_false h, ha]

/-- No register shows the number of the read. -/
theorem registerValue_withDraws (n a : Nat) (s : State) : registerValue { s with draws := n } a = registerValue s a := rfl

/-- The number of the read matters only to bytes that nothing has written (R40). -/
theorem bufferBytes_withDraws {s : State} {a m : Nat} (h : ∀ k, k < m → Memory.read s.mem (a + k) ≠ none) (n : Nat) :
    bufferBytes { s with draws := n } a m = bufferBytes s a m := by
  refine List.map_congr_left fun k hk => ?_
  obtain ⟨b, hb⟩ := Option.ne_none_iff_exists'.mp (h k (List.mem_range.mp hk))
  rw [bufferByte_of_written hb]
  exact bufferByte_of_written hb

/-- Settles O27: the load's form, and the rereading of a misfit, of a register and of written bytes. -/
theorem readsHaveNoSideEffect : Obligations.ReadsHaveNoSideEffect := by
  unfold Obligations.ReadsHaveNoSideEffect
  intro s w a ha
  refine ⟨hostLoad_window ha w s, fun n h hloc => ?_⟩
  have h' : ({ s with draws := n } : State).pend = none := h
  by_cases hfit : Misfit w a
  · rw [busRead_misfit hfit, busRead_misfit hfit]
  by_cases hreg : a < 0x100
  · rw [busRead_register_of_fit h' hfit hreg, busRead_register_of_fit h hfit hreg, registerValue_withDraws n a s]
  · have hw := (accessWf_iff w a).mpr hfit
    rw [busRead_buffer h' (Nat.not_lt.mp hreg) hw, busRead_buffer h (Nat.not_lt.mp hreg) hw,
      bufferBytes_withDraws (hloc.resolve_left hreg)]

end Sys2Proof.Proofs
end

/-! Decoding and encoding (O1 to O4): a command word decodes exactly to the command that it encodes, and the encodings are the OP values of R102. -/

section

namespace Sys2Proof.Proofs

open Sys2Proof.Machine Sys2Proof.Claims

/-! ### Command words (R100, R102, R105) -/

/-- The decoder's only source of a command is its encoding. -/
theorem decodeWord_eq_ok_iff {w : Word} {i : Instr} : decodeWord w = .ok i ↔ w = encodeWord i :=
  ⟨eq_encodeWord_of_decodeWord, fun h => h ▸ decodeWord_encodeWord i⟩

/-- The commands in the order of R102. -/
def commandTable : List Instr :=
  [.mhIsValid, .mhValidate, .mhValidateLen, .mhDecodeHex, .mhDecodeInt, .mhEncodeHex, .mhEncodeBytes, .mhDecodeBytes,
    .mhRandom, .crc16, .crc16Verify, .aesEnc, .tokCreate, .tokGenerate, .tokAdvance, .tokPubid, .tokExportKey,
    .tokExportPrivid, .otpValidate, .otpExtractPid]

theorem mem_commandTable (i : Instr) : i ∈ commandTable := by cases i <;> decide

theorem opValues_eq_map_encodeWord : opValues = commandTable.map fun i => (encodeWord i).toNat := rfl

theorem mem_opValues_iff {n : Nat} : n ∈ opValues ↔ ∃ i, (encodeWord i).toNat = n := by
  simp [opValues_eq_map_encodeWord, mem_commandTable]

theorem lt_of_mem_opValues : ∀ n ∈ opValues, n < 256 := by decide

/-- A word is a command's if RSVD is 0 and OP is in the map. -/
theorem exists_eq_encodeWord_iff (w : Word) :
    (∃ i, w = encodeWord i) ↔ w.toNat / 256 = 0 ∧ w.toNat % 256 ∈ opValues := by
  constructor
  · rintro ⟨i, rfl⟩
    have hmem : (encodeWord i).toNat ∈ opValues := mem_opValues_iff.mpr ⟨i, rfl⟩
    have hlt := lt_of_mem_opValues _ hmem
    exact ⟨Nat.div_eq_of_lt hlt, (Nat.mod_eq_of_lt hlt).symm ▸ hmem⟩
  · rintro ⟨hrsvd, hop⟩
    obtain ⟨i, hi⟩ := mem_opValues_iff.mp hop
    exact ⟨i, BitVec.eq_of_toNat_eq (by omega)⟩

theorem exists_decodeWord_error_iff (w : Word) :
    (∃ x, decodeWord w = .error x) ↔ ¬ ∃ i, decodeWord w = .ok i := by
  cases decodeWord w <;> simp

/-- Settles O3: a word is rejected if it is no command's encoding. -/
theorem reservedWordsAreRejected : Obligations.ReservedWordsAreRejected := by
  unfold Obligations.ReservedWordsAreRejected
  intro w
  simp only [exists_decodeWord_error_iff, decodeWord_eq_ok_iff, exists_eq_encodeWord_iff]
  exact Decidable.not_and_iff_or_not

/-- Settles O1: each word of the table is its command's encoding. -/
theorem tableWordsDecodeToTheirCommands : Obligations.TableWordsDecodeToTheirCommands := by
  unfold Obligations.TableWordsDecodeToTheirCommands
  have row {w : Word} {i : Instr} (h : w = encodeWord i) : decodeWord w = .ok i := decodeWord_eq_ok_iff.mpr h
  exact ⟨row rfl, row rfl, row rfl, row rfl, row rfl, row rfl, row rfl, row rfl, row rfl, row rfl, row rfl, row rfl,
    row rfl, row rfl, row rfl, row rfl, row rfl, row rfl, row rfl, row rfl⟩

/-! ### Bytes (R73, R101) -/

/-- Four bytes and more decode as the word that the four make. -/
theorem decode_cons_eq_ok_iff {b0 b1 b2 b3 : Byte} {bs rest : List Byte} {i : Instr} :
    decode (b0 :: b1 :: b2 :: b3 :: bs) = .ok (i, rest) ↔
      decodeWord (wordOfBytes b0 b1 b2 b3) = .ok i ∧ bs = rest := by
  simp only [decode]
  cases decodeWord (wordOfBytes b0 b1 b2 b3) <;> simp

theorem exists_four_bytes_of_decode {bs rest : List Byte} {i : Instr} (h : decode bs = .ok (i, rest)) :
    ∃ b0 b1 b2 b3 tail, bs = b0 :: b1 :: b2 :: b3 :: tail := by
  unfold decode at h
  split at h
  · exact ⟨_, _, _, _, _, rfl⟩
  · cases h

theorem decode_encode_append (i : Instr) (rest : List Byte) : decode (encode i ++ rest) = .ok (i, rest) :=
  decode_cons_eq_ok_iff.mpr ⟨by rw [wordOfBytes_bytesOfWord, decodeWord_encodeWord], rfl⟩

theorem eq_encode_append_of_decode {bs rest : List Byte} {i : Instr} (h : decode bs = .ok (i, rest)) :
    bs = encode i ++ rest := by
  obtain ⟨b0, b1, b2, b3, tail, rfl⟩ := exists_four_bytes_of_decode h
  obtain ⟨hword, rfl⟩ := decode_cons_eq_ok_iff.mp h
  rw [encode, ← eq_encodeWord_of_decodeWord hword, bytesOfWord_wordOfBytes]
  rfl

/-- Settles O2: words and their four bytes determine each other, and so do commands and their words. -/
theorem decodeAndEncodeAgree : Obligations.DecodeAndEncodeAgree :=
  ⟨fun i rest _ => decode_encode_append i rest, fun _ _ _ => eq_encode_append_of_decode⟩

/-! ### The block's step on an illegal word (R104) -/

theorem blockNext_of_blockTurn {s : State} {w : Word} (h : BlockTurn s w) : blockNext s = true := by
  simpa [blockNext, Agent.finished] using h.2

theorem step_eq_blockStep_of_blockTurn {s : State} {w : Word} (h : BlockTurn s w) : step s = blockStep w s :=
  step_block h.1 (blockNext_of_blockTurn h)

theorem blockStep_of_decodeWord_error {w : Word} {x : DecodeError} (h : decodeWord w = .error x) (s : State) :
    blockStep w s = .next (failed .illegalCommand 0 0 s) := by
  simp only [blockStep, h]
  rfl

/-- Settles O4: the block's step on a word that the decoder rejects. -/
theorem illegalCommandCompletes : Obligations.IllegalCommandCompletes := by
  unfold Obligations.IllegalCommandCompletes
  refine ⟨rfl, fun s w hturn hreserved => ?_⟩
  obtain ⟨x, hx⟩ := (reservedWordsAreRejected w).mpr hreserved
  rw [step_eq_blockStep_of_blockTurn hturn, blockStep_of_decodeWord_error hx]

end Sys2Proof.Proofs
end

/-! The host's statements (O60): the search for a loop's `end` finds the lines that the `rep` encloses. -/

section

namespace Sys2Proof.Proofs

open Sys2Proof.Machine Sys2Proof.Claims

/-! ### The lines of a loop (R106) -/

/-- Lines without an unmatched `rep` or `end` are passed over. -/
theorem stmtsToEnd_balanced_append {body : List HostStmt} (h : Balanced body) (d : Nat) (p : List HostStmt) :
    stmtsToEnd d (body ++ p) = (stmtsToEnd d p).map (· + body.length) := by
  induction h generalizing d p with
  | nil => simp
  | line hst _ ih =>
    rw [List.cons_append, stmtsToEnd_line hst, ih, Option.map_map]
    rfl
  | @loop n b q _ _ ihb ihq =>
    have hassoc : .rep n :: (b ++ .endRep :: q) ++ p = .rep n :: (b ++ .endRep :: (q ++ p)) := by simp
    rw [hassoc, stmtsToEnd, ihb, stmtsToEnd, ihq, Option.map_map, Option.map_map, Option.map_map]
    congr 1
    funext k
    simp only [Function.comp_apply, List.length_cons, List.length_append]
    omega

/-- Lines that close the innermost open loop and then `d` more: before each of these `end`s stand balanced lines. -/
inductive ClosesLoops : Nat → List HostStmt → Prop
  | last {body rest : List HostStmt} (hbody : Balanced body) : ClosesLoops 0 (body ++ .endRep :: rest)
  | more {d : Nat} {body rest : List HostStmt} (hbody : Balanced body) (hrest : ClosesLoops d rest) :
    ClosesLoops (d + 1) (body ++ .endRep :: rest)

theorem ClosesLoops.line_cons {d : Nat} {p : List HostStmt} (h : ClosesLoops d p) {st : HostStmt}
    (hst : st ≠ .endRep ∧ ∀ n, st ≠ .rep n) : ClosesLoops d (st :: p) := by
  cases h with
  | last hbody => exact .last (.line hst hbody)
  | more hbody hrest => exact .more (.line hst hbody) hrest

/-- A `rep` before the lines takes the first of the loops for its own. -/
theorem ClosesLoops.rep_cons {d : Nat} {p : List HostStmt} (h : ClosesLoops (d + 1) p) (n : Nat) :
    ClosesLoops d (.rep n :: p) := by
  cases h with
  | more hbody hrest =>
    cases hrest with
    | last hbody' => simpa using ClosesLoops.last (.loop (n := n) hbody hbody')
    | more hbody' hrest' => simpa using ClosesLoops.more (.loop (n := n) hbody hbody') hrest'

/-- The search succeeds only where every open loop is closed. -/
theorem closesLoops_of_stmtsToEnd {d : Nat} {p : List HostStmt} (h : stmtsToEnd d p ≠ none) : ClosesLoops d p := by
  induction p generalizing d with
  | nil => exact absurd rfl h
  | cons st p ih =>
    cases st with
    | endRep =>
      cases d with
      | zero => exact .last .nil
      | succ d => exact .more .nil (ih (by simpa [stmtsToEnd] using h))
    | rep n => exact (ih (by simpa [stmtsToEnd] using h)).rep_cons n
    | st | ld | label | bneBusy | assertReset =>
      exact (ih (by simpa [stmtsToEnd] using h)).line_cons ⟨nofun, nofun⟩

theorem stmtsToEnd_of_encloses {g : Agent} {body : List HostStmt} (h : Encloses g body) :
    stmtsToEnd 0 (g.prog.drop (g.pos + 1)) = some body.length := by
  obtain ⟨hbody, rest, hdrop⟩ := h
  rw [hdrop, stmtsToEnd_balanced_append hbody]
  simp [stmtsToEnd]

theorem stmtsToEnd_of_not_encloses {g : Agent} (h : ∀ body, ¬ Encloses g body) :
    stmtsToEnd 0 (g.prog.drop (g.pos + 1)) = none := by
  by_contra hne
  generalize hdrop : g.prog.drop (g.pos + 1) = p at hne
  obtain ⟨hbody⟩ := closesLoops_of_stmtsToEnd hne
  exact h _ ⟨hbody, _, hdrop⟩

/-! ### Each statement's form -/

/-- The bus does not touch the host. -/
theorem busWrite_agent (w : Width) (a : Nat) (v : Word) (s : State) : (busWrite w a v s).2.agent = s.agent := by
  obtain ⟨h, -⟩ | ⟨h, -⟩ | ⟨-, -, -, h⟩ | ⟨-, _, _, _, _, _, h, -⟩ := busWrite_cases w a v s
  all_goals rw [h]
  rfl

theorem hostStore_window {a : Nat} (ha : a < 0x400) (w : Width) (v : Word) (s : State) :
    hostStore w a v s = .next { (busWrite w a v s).2 with agent :=
      { s.agent with pos := s.agent.pos + 1, replies := s.agent.replies ++ [(busWrite w a v s).1] } } := by
  simp only [hostStore, ha, if_true, Agent.answer, Agent.advance, busWrite_agent]

theorem hostStore_outside {a : Nat} (ha : 0x400 ≤ a) (w : Width) (v : Word) (s : State) :
    hostStore w a v s = .fault .outsideWindow := by
  simp [hostStore, show ¬ a < 0x400 by omega]

theorem hostLoad_outside {a : Nat} (ha : 0x400 ≤ a) (w : Width) (s : State) :
    hostLoad w a s = .fault .outsideWindow := by
  simp [hostLoad, show ¬ a < 0x400 by omega]

section

variable {s : State}

theorem hostRep_zero {body : List HostStmt} (h : Encloses s.agent body) :
    hostRep 0 s = .next { s with agent := { s.agent with pos := s.agent.pos + body.length + 2 } } := by
  have hpos : s.agent.pos + 1 + body.length + 1 = s.agent.pos + body.length + 2 := by omega
  simp only [hostRep, stmtsToEnd_of_encloses h, hpos]

theorem hostRep_succ {body : List HostStmt} (h : Encloses s.agent body) (n : Nat) :
    hostRep (n + 1) s = .next { s with agent :=
      { s.agent with pos := s.agent.pos + 1, loops := (s.agent.pos + 1, n) :: s.agent.loops } } := by
  simp only [hostRep, stmtsToEnd_of_encloses h, Agent.advance]

theorem hostRep_unmatched (h : ∀ body, ¬ Encloses s.agent body) (n : Nat) : hostRep n s = .fault .unmatchedLoop := by
  simp only [hostRep, stmtsToEnd_of_not_encloses h]

theorem hostEnd_nextRound {p n : Nat} {ls : List (Nat × Nat)} (h : s.agent.loops = (p, n + 1) :: ls) :
    hostEnd s = .next { s with agent := { s.agent with pos := p, loops := (p, n) :: ls } } := by
  simp only [hostEnd, h]

theorem hostEnd_lastRound {p : Nat} {ls : List (Nat × Nat)} (h : s.agent.loops = (p, 0) :: ls) :
    hostEnd s = .next { s with agent := { s.agent with pos := s.agent.pos + 1, loops := ls } } := by
  simp only [hostEnd, h, Agent.advance]

theorem hostEnd_unmatched (h : s.agent.loops = []) : hostEnd s = .fault .unmatchedLoop := by
  simp only [hostEnd, h]

theorem hostBranch_notTaken (h : s.agent.lastBusy = some false) (l : Nat) :
    hostBranch l s = .next { s with agent := { s.agent with pos := s.agent.pos + 1 } } := by
  simp only [hostBranch, h, Agent.advance]

theorem hostBranch_taken (h : s.agent.lastBusy = some true) {l : Nat} (hl : .label l ∈ s.agent.prog) :
    hostBranch l s = .next { s with agent := { s.agent with pos := s.agent.prog.idxOf (.label l) } } := by
  simp [hostBranch, h, hl]

theorem hostBranch_noSuchLabel (h : s.agent.lastBusy = some true) {l : Nat} (hl : .label l ∉ s.agent.prog) :
    hostBranch l s = .fault .noSuchLabel := by
  simp [hostBranch, h, hl]

theorem hostBranch_beforeStatus (h : s.agent.lastBusy = none) (l : Nat) :
    hostBranch l s = .fault .branchBeforeStatus := by
  simp only [hostBranch, h]

end

/-- Settles O60: the form of each statement, case by case. -/
theorem hostStatementsByTheirRules : Obligations.HostStatementsByTheirRules := by
  unfold Obligations.HostStatementsByTheirRules
  exact fun s =>
    ⟨fun w a v ha => hostStore_window ha w v s,
      fun w a ha => hostLoad_window ha w s,
      fun w a v ha => ⟨hostStore_outside ha w v s, hostLoad_outside ha w s⟩,
      fun body h => ⟨hostRep_succ h, hostRep_zero h⟩,
      hostRep_unmatched,
      fun p n ls => hostEnd_nextRound,
      fun p ls => hostEnd_lastRound,
      hostEnd_unmatched,
      fun l => rfl,
      fun l h => hostBranch_notTaken h l,
      fun l h hl => ⟨_, List.getElem?_idxOf hl, hostBranch_taken h hl⟩,
      fun l h hl => hostBranch_noSuchLabel h hl,
      fun l h => hostBranch_beforeStatus h l⟩

end Sys2Proof.Proofs
end

/-! The modhex codec (O31 to O41): the model's tables and string operations in the words of the statements, and how a command on the input string ends. -/

section

namespace Sys2Proof.Proofs

open Sys2Proof.Machine Sys2Proof.Claims

/-! ### Tables (R130 to R132) -/

theorem isMh_iff_mem_alphabet (c : Byte) : isMh c = true ↔ c ∈ alphabet := isMh_iff c

theorem isMh_of_forall_mem_alphabet {S : List Byte} (h : ∀ c ∈ S, c ∈ alphabet) : ∀ c ∈ S, isMh c = true :=
  fun c hc => (isMh_iff_mem_alphabet c).mpr (h c hc)

theorem mh_eq_charOf (n : Nibble) : mh n = charOf n.toNat := rfl

theorem mhInv_toNat_eq_nibbleOf {c : Byte} (h : c ∈ alphabet) : (mhInv c).toNat = nibbleOf c :=
  mhInv_toNat c ((isMh_iff_mem_alphabet c).mpr h)

theorem mh_mhInv_of_mem_alphabet {c : Byte} (h : c ∈ alphabet) : mh (mhInv c) = c :=
  mh_mhInv c ((isMh_iff_mem_alphabet c).mpr h)

theorem nibbleOf_lt {c : Byte} (h : c ∈ alphabet) : nibbleOf c < 16 := List.idxOf_lt_length_of_mem h

theorem isHex_iff_isHexChar : ∀ c : Byte, isHex c = true ↔ IsHexChar c := by
  unfold IsHexChar
  decide +kernel

theorem hexVal_toNat {c : Byte} (h : IsHexChar c) : (hexVal c).toNat = hexDigits.idxOf (lower c) := by
  have key : ∀ c : Byte, lower c ∈ hexDigits → (hexVal c).toNat = hexDigits.idxOf (lower c) := by decide +kernel
  exact key c h

theorem hexChar_eq_getD : ∀ n : Nibble, hexChar n = hexDigits.getD n.toNat 0 := by decide

/-- A digit's value written as a digit again is the digit, lowered. -/
theorem hexChar_hexVal {c : Byte} (h : IsHexChar c) : hexChar (hexVal c) = lower c := by
  rw [hexChar_eq_getD, hexVal_toNat h, List.getD_eq_getElem _ _ (List.idxOf_lt_length_of_mem h), List.getElem_idxOf]

/-- Settles O31: the model's tables in the words of the statements. -/
theorem modhexTablesAreMutualInverses : Obligations.ModhexTablesAreMutualInverses := by
  unfold Obligations.ModhexTablesAreMutualInverses
  exact ⟨fun n => ⟨mh_eq_charOf n, isMh_mh n, mhInv_mh n⟩,
    fun c => ⟨isMh_iff_mem_alphabet c, fun h => ⟨mh_mhInv_of_mem_alphabet h, mhInv_toNat_eq_nibbleOf h⟩⟩⟩

/-! ### Operations on strings (R133, R135, R141, R144) -/

theorem mhBytes_eq_modhexOf (b : List Byte) : mhBytes b = modhexOf b := by
  induction b with
  | nil => rfl
  | cons x b ih =>
    have hhi : (hiNibble x).toNat = x.toNat / 16 := by
      have := x.isLt
      rw [hiNibble, toNat_extract_eq]
      omega
    have hlo : (loNibble x).toNat = x.toNat % 16 := by
      rw [loNibble, toNat_extract_eq]
      omega
    rw [mhBytes, mh_eq_charOf, mh_eq_charOf, hhi, hlo, ih]
    rfl

theorem mhBytes_ne_nil {b : List Byte} (h : b ≠ []) : mhBytes b ≠ [] := by
  rw [← List.length_pos_iff] at h ⊢
  rw [mhBytes_length]
  omega

theorem modhexOf_length (b : List Byte) : (modhexOf b).length = 2 * b.length := by
  rw [← mhBytes_eq_modhexOf, mhBytes_length]

theorem modhex_modhexOf {b : List Byte} (h : b ≠ []) : Modhex (modhexOf b) := by
  rw [← mhBytes_eq_modhexOf]
  exact ⟨mhBytes_ne_nil h, fun c hc => (isMh_iff_mem_alphabet c).mp (List.all_eq_true.mp (mhBytes_isMh b) c hc)⟩

theorem validate_of_modhex {S : List Byte} (h : Modhex S) : validate S = .ok () :=
  validate_ok S h.1 (isMh_of_forall_mem_alphabet h.2)

theorem isValidModhex_iff (S : List Byte) : isValidModhex S = true ↔ Modhex S := by
  simp [isValidModhex, Modhex, isMh_iff_mem_alphabet, List.length_pos_iff]

/-- A scan reports the first offender. -/
theorem scan_of_firstOffender {ok : Byte → Bool} {good : Byte → Prop} (hok : ∀ c, ok c = true ↔ good c) (c : ErrCode)
    (d : Byte) {S : List Byte} {k : Nat} (h : FirstOffender good S k) :
    scan ok c d S = .error ⟨c, d, BitVec.ofNat 32 k⟩ := by
  obtain ⟨hk, hbad, hgood⟩ := h
  have getD_eq {j : Nat} (hj : j < S.length) : S.getD j 0 = S[j] := List.getD_eq_getElem S 0 hj
  apply scan_error ok c d S k hk
  · rw [← Bool.not_eq_true, hok, ← getD_eq]
    exact hbad
  · intro j hj
    rw [hok, ← getD_eq]
    exact hgood j hj

theorem validate_of_firstOffender {S : List Byte} {k : Nat} (h : FirstOffender (· ∈ alphabet) S k) :
    validate S = .error ⟨.invalidModhexChar, 0, BitVec.ofNat 32 k⟩ := by
  rw [validate_of_ne_nil S (List.ne_nil_of_length_pos (Nat.zero_lt_of_lt h.1))]
  exact scan_of_firstOffender isMh_iff_mem_alphabet _ _ h

theorem placeValue_cons (c : Byte) (S : List Byte) :
    placeValue (c :: S) = nibbleOf c * 16 ^ S.length + placeValue S := by
  have hpow (i : Nat) : S.length + 1 - 1 - (i + 1) = S.length - 1 - i := by omega
  simp only [placeValue, List.length_cons, List.range_succ_eq_map, List.map_cons, List.map_map, List.sum_cons,
    Function.comp_def, List.getD_cons_succ, hpow]
  rfl

theorem placeValue_lt {S : List Byte} (h : ∀ c ∈ S, c ∈ alphabet) : placeValue S < 16 ^ S.length := by
  induction S with
  | nil => decide
  | cons c S ih =>
    obtain ⟨hc, hS⟩ := List.forall_mem_cons.mp h
    calc placeValue (c :: S) = nibbleOf c * 16 ^ S.length + placeValue S := placeValue_cons c S
      _ < nibbleOf c * 16 ^ S.length + 16 ^ S.length := Nat.add_lt_add_left (ih hS) _
      _ = (nibbleOf c + 1) * 16 ^ S.length := by ring
      _ ≤ 16 * 16 ^ S.length := Nat.mul_le_mul_right _ (nibbleOf_lt hc)
      _ = 16 ^ (c :: S).length := by rw [List.length_cons, Nat.pow_succ']

/-- Horner's scheme from a value `v` on: the characters to come push it up by a nibble each. -/
theorem foldl_mhInv_eq {S : List Byte} (h : ∀ c ∈ S, c ∈ alphabet) (v : Nat) :
    S.foldl (fun v c => v * 16 + (mhInv c).toNat) v = v * 16 ^ S.length + placeValue S := by
  induction S generalizing v with
  | nil => simp [placeValue]
  | cons c S ih =>
    obtain ⟨hc, hS⟩ := List.forall_mem_cons.mp h
    rw [List.foldl_cons, ih hS, mhInv_toNat_eq_nibbleOf hc, placeValue_cons, List.length_cons]
    ring

theorem modhexValue_eq_placeValue {S : List Byte} (h : ∀ c ∈ S, c ∈ alphabet) : modhexValue S = placeValue S := by
  rw [modhexValue, foldl_mhInv_eq h, Nat.zero_mul, Nat.zero_add]

theorem mhInv_append_eq {c d : Byte} (hc : c ∈ alphabet) (hd : d ∈ alphabet) :
    mhInv c ++ mhInv d = BitVec.ofNat 8 (16 * nibbleOf c + nibbleOf d) := by
  apply eq_ofNat_of_toNat_eq
  rw [toNat_append_eq, mhInv_toNat_eq_nibbleOf hc, mhInv_toNat_eq_nibbleOf hd]
  omega

/-- The bytes of the character pairs by their index (R144). -/
theorem pairBytes_eq_map {S : List Byte} (h : ∀ c ∈ S, c ∈ alphabet) :
    pairBytes S = (List.range (S.length / 2)).map fun j =>
      BitVec.ofNat 8 (16 * nibbleOf (S.getD (2 * j) 0) + nibbleOf (S.getD (2 * j + 1) 0)) := by
  induction S using pairBytes.induct with
  | case1 c d S ih =>
    obtain ⟨hc, hdS⟩ := List.forall_mem_cons.mp h
    obtain ⟨hd, hS⟩ := List.forall_mem_cons.mp hdS
    have hlen : (c :: d :: S).length / 2 = S.length / 2 + 1 := by simp only [List.length_cons]; omega
    rw [pairBytes, ih hS, mhInv_append_eq hc hd, hlen, List.range_succ_eq_map, List.map_cons, List.map_map]
    rfl
  | case2 S hS =>
    match S, hS with
    | [], _ => rfl
    | [_], _ => simp [pairBytes]
    | c :: d :: S, hS => exact absurd rfl (hS c d S)

/-! ### Round trips (R136) -/

theorem decodeBytes_mhBytes {b : List Byte} (h : b ≠ []) : decodeBytes (mhBytes b) = .ok b := by
  have hvalid : validate (mhBytes b) = .ok () := mhBytes_eq_modhexOf b ▸ validate_of_modhex (modhex_modhexOf h)
  rw [decodeBytes_ok hvalid (by simp), pairBytes_mhBytes]

theorem encodeHex_of_forall_isHexChar {h : List Byte} (heven : h.length % 2 = 0) (hhex : ∀ c ∈ h, IsHexChar c) :
    encodeHex h = .ok (h.map fun c => mh (hexVal c)) :=
  encodeHex_ok heven (scan_ok isHex _ _ h fun c hc => (isHex_iff_isHexChar c).mpr (hhex c hc))

theorem decodeHex_encoded {h : List Byte} (h0 : h ≠ []) (hhex : ∀ c ∈ h, IsHexChar c) :
    decodeHex (h.map fun c => mh (hexVal c)) = .ok (h.map lower) := by
  have hvalid : validate (h.map fun c => mh (hexVal c)) = .ok () :=
    validate_ok _ (by simpa using h0) (by simp [isMh_mh])
  rw [decodeHex_ok hvalid, List.map_map]
  congr 1
  refine List.map_congr_left fun c hc => ?_
  rw [Function.comp_apply, mhInv_mh, hexChar_hexVal (hhex c hc)]

/-- Settles O32: each decoder undoes its encoder, whose output is modhex. -/
theorem modhexRoundTrips : Obligations.ModhexRoundTrips := by
  unfold Obligations.ModhexRoundTrips
  exact ⟨mhInv_mh, fun c => mh_mhInv_of_mem_alphabet, fun b => decodeBytes_mhBytes,
    fun h h0 heven hhex => ⟨_, encodeHex_of_forall_isHexChar heven hhex, decodeHex_encoded h0 hhex⟩,
    rfl, [], rfl, rfl⟩

/-! ### How a command on the input string ends (R134, R325, R326) -/

theorem outHolds_writeBytes (m : Memory) (r : List Byte) : OutHolds m (Memory.writeBytes m Config.outBase r) r := by
  constructor
  · intro i hi
    rw [List.getD_eq_getElem r 0 hi]
    exact Memory.read_writeBytes_inside r m Config.outBase i hi
  · intro a ha
    exact Memory.read_writeBytes_outside r m ha

/-- A command that ends with `writeOut`, its requests having left the buffers alone, answers in OUT. -/
theorem answersOut_of_exec {i : Instr} {s s' : State} {r : List Byte} (h : exec i s = .next (complete (writeOut r s')))
    (hmem : s'.mem = s.mem) : AnswersOut i s s' r :=
  ⟨_, h, hmem ▸ outHolds_writeBytes s'.mem r⟩

theorem rangeChecked_of_exec {i : Instr} {α : Type} {f : State → List Byte → Except CmdError α} {w : α → State → State}
    (h : ∀ s, exec i s = .next (runString (f s) w s)) : RangeChecked i := by
  intro s hs
  rw [h, runString_range _ _ hs]
  rfl

section

variable {i : Instr} {s : State} {α : Type} {f : List Byte → Except CmdError α} {w : α → State → State}
  (hexec : exec i s = .next (runString f w s)) (hlen : s.inLen.toNat ≤ 256)

include hexec hlen

theorem exec_of_error {c : ErrCode} {d : Byte} {k : Word} (hf : f (Claims.input s) = .error ⟨c, d, k⟩) :
    exec i s = .next (failed c d k (readOnce s)) := by
  rw [hexec, runString_error w hlen hf]
  rfl

theorem exec_of_ok {a : α} (hf : f (Claims.input s) = .ok a) : exec i s = .next (succeeded (w a (readOnce s))) := by
  rw [hexec, runString_ok w hlen hf]
  rfl

/-- A command that validates first has V's errors (R135). -/
theorem vErrors_of_exec (hf : ∀ x, validate (Claims.input s) = .error x → f (Claims.input s) = .error x) :
    VErrors i s := by
  refine ⟨fun hnil => ?_, fun k hk => ?_⟩
  · exact exec_of_error hexec hlen (hf _ (hnil ▸ validate_nil))
  · exact exec_of_error hexec hlen (hf _ (validate_of_firstOffender hk))

end

theorem answersOut_of_ok {i : Instr} {s : State} {f : List Byte → Except CmdError (List Byte)} {r : List Byte}
    (hexec : exec i s = .next (runString f writeOut s)) (hlen : s.inLen.toNat ≤ 256)
    (hf : f (Claims.input s) = .ok r) : AnswersOut i s (readOnce s) r :=
  answersOut_of_exec (exec_of_ok hexec hlen hf) rfl

theorem input_length (s : State) : (Claims.input s).length = s.inLen.toNat := inputString_length s

/-! ### The commands' meanings (R137 to R145) -/

theorem exec_mhIsValid (s : State) :
    exec .mhIsValid s = .next (runString (fun S => .ok (isValidModhex S)) setResBool s) := rfl

theorem exec_mhValidate (s : State) : exec .mhValidate s = .next (runString validate noEffect s) := rfl

theorem exec_mhValidateLen (s : State) :
    exec .mhValidateLen s = .next (runString (validateLen s.arg.toNat) noEffect s) := rfl

theorem exec_mhDecodeHex (s : State) : exec .mhDecodeHex s = .next (runString decodeHex writeOut s) := rfl

theorem exec_mhDecodeInt (s : State) : exec .mhDecodeInt s = .next (runString decodeInt setResInt s) := rfl

theorem exec_mhEncodeHex (s : State) : exec .mhEncodeHex s = .next (runString encodeHex writeOut s) := rfl

theorem exec_mhEncodeBytes (s : State) : exec .mhEncodeBytes s = .next (runString encodeBytes writeOut s) := rfl

theorem exec_mhDecodeBytes (s : State) : exec .mhDecodeBytes s = .next (runString decodeBytes writeOut s) := rfl

theorem exec_mhRandom (s : State) : exec .mhRandom s = .next (mhRandom s) := rfl

/-! ### Validation (R137 to R139) -/

/-- Settles O33: the check of S as a boolean cannot fail. -/
theorem mhIsValidRule : Obligations.MhIsValidRule := by
  unfold Obligations.MhIsValidRule
  exact ⟨decodeWord_encodeWord .mhIsValid, rangeChecked_of_exec exec_mhIsValid, fun s hlen =>
    ⟨isValidModhex (Claims.input s), isValidModhex_iff _, exec_of_ok (exec_mhIsValid s) hlen rfl⟩⟩

/-- Settles O34: V and no effect. -/
theorem mhValidateRule : Obligations.MhValidateRule := by
  unfold Obligations.MhValidateRule
  exact ⟨decodeWord_encodeWord .mhValidate, rangeChecked_of_exec exec_mhValidate, fun s hlen =>
    ⟨vErrors_of_exec (exec_mhValidate s) hlen fun _ => id,
      fun hS => exec_of_ok (exec_mhValidate s) hlen (validate_of_modhex hS)⟩⟩

theorem validateLen_of_ne {n : Nat} {S : List Byte} (h : S.length ≠ n) :
    validateLen n S = .error (err0 .invalidModhexLength 2) := by
  simp [validateLen, h]

theorem validateLen_of_eq {n : Nat} {S : List Byte} (h : S.length = n) : validateLen n S = validate S := by
  simp [validateLen, h]

/-- Settles O35: the length is compared first, then V. -/
theorem mhValidateLenRule : Obligations.MhValidateLenRule := by
  unfold Obligations.MhValidateLenRule
  refine ⟨decodeWord_encodeWord .mhValidateLen, rangeChecked_of_exec exec_mhValidateLen, fun s hlen => ⟨fun hne => ?_,
    fun heq => ?_⟩⟩
  · exact exec_of_error (exec_mhValidateLen s) hlen (validateLen_of_ne (input_length s ▸ hne))
  · have hV : validateLen s.arg.toNat (Claims.input s) = validate (Claims.input s) :=
      validateLen_of_eq (input_length s ▸ heq)
    exact ⟨vErrors_of_exec (exec_mhValidateLen s) hlen fun _ => hV.trans,
      fun hS => exec_of_ok (exec_mhValidateLen s) hlen (hV.trans (validate_of_modhex hS))⟩

/-! ### Decoding (R140, R141, R144) -/

theorem decodeHex_of_modhex {S : List Byte} (h : Modhex S) :
    decodeHex S = .ok (S.map fun c => hexDigits.getD (nibbleOf c) 0) := by
  rw [decodeHex_ok (validate_of_modhex h)]
  congr 1
  refine List.map_congr_left fun c hc => ?_
  rw [hexChar_eq_getD, mhInv_toNat_eq_nibbleOf (h.2 c hc)]

/-- Settles O36: V, then each character's nibble as a digit. -/
theorem mhDecodeHexRule : Obligations.MhDecodeHexRule := by
  unfold Obligations.MhDecodeHexRule
  exact ⟨decodeWord_encodeWord .mhDecodeHex, rangeChecked_of_exec exec_mhDecodeHex, fun s hlen =>
    ⟨vErrors_of_exec (exec_mhDecodeHex s) hlen fun _ => decodeHex_error,
      fun hS => answersOut_of_ok (exec_mhDecodeHex s) hlen (decodeHex_of_modhex hS)⟩⟩

theorem decodeInt_of_modhex {S : List Byte} (h : Modhex S) (h16 : S.length ≤ 16) :
    decodeInt S = .ok (BitVec.ofNat 64 (placeValue S)) := by
  rw [decodeInt_ok (validate_of_modhex h) h16, modhexValue_eq_placeValue h.2]

/-- A value of 64 bits by its two result registers (R31). -/
theorem setResInt_ofNat {v : Nat} (h : v < 2 ^ 64) (s : State) : setResInt (BitVec.ofNat 64 v) s =
    { s with resIntHi := BitVec.ofNat 32 (v / 2 ^ 32), resIntLo := BitVec.ofNat 32 v } := by
  simp only [setResInt, extractLsb'_eq_ofNat, BitVec.toNat_ofNat, Nat.mod_eq_of_lt h, Nat.pow_zero, Nat.div_one]

/-- Settles O37: V, then the length, then the base-16 value, which fits as 16 characters have 64 bits. -/
theorem mhDecodeIntRule : Obligations.MhDecodeIntRule := by
  unfold Obligations.MhDecodeIntRule
  refine ⟨decodeWord_encodeWord .mhDecodeInt, rangeChecked_of_exec exec_mhDecodeInt, fun s hlen =>
    ⟨vErrors_of_exec (exec_mhDecodeInt s) hlen fun _ => decodeInt_error, fun hS hlong => ?_, fun hS hshort => ?_⟩⟩
  · exact exec_of_error (exec_mhDecodeInt s) hlen (decodeInt_long (validate_of_modhex hS) (input_length s ▸ hlong))
  · rw [← input_length s] at hshort
    have hlt : placeValue (Claims.input s) < 2 ^ 64 := calc
      placeValue (Claims.input s) < 16 ^ (Claims.input s).length := placeValue_lt hS.2
      _ ≤ 16 ^ 16 := Nat.pow_le_pow_right (by decide) hshort
    refine ⟨hlt, ?_⟩
    rw [exec_of_ok (exec_mhDecodeInt s) hlen (decodeInt_of_modhex hS hshort), setResInt_ofNat hlt]
    rfl

/-- Settles O40: V, then parity, then the byte of each pair. -/
theorem mhDecodeBytesRule : Obligations.MhDecodeBytesRule := by
  unfold Obligations.MhDecodeBytesRule
  refine ⟨decodeWord_encodeWord .mhDecodeBytes, rangeChecked_of_exec exec_mhDecodeBytes, fun s hlen =>
    ⟨vErrors_of_exec (exec_mhDecodeBytes s) hlen fun _ => decodeBytes_error, ?_⟩⟩
  have hexec := exec_mhDecodeBytes s
  simp only [← input_length s]
  exact ⟨fun hS hodd => exec_of_error hexec hlen (decodeBytes_odd (validate_of_modhex hS) hodd),
    fun hS heven =>
      pairBytes_eq_map hS.2 ▸ answersOut_of_ok hexec hlen (decodeBytes_ok (validate_of_modhex hS) heven)⟩

/-! ### Encoding (R142, R143) -/

theorem encodeHex_of_firstOffender {S : List Byte} {k : Nat} (heven : S.length % 2 = 0)
    (h : FirstOffender IsHexChar S k) :
    encodeHex S = .error ⟨.invalidHexInput, 2, BitVec.ofNat 32 k⟩ :=
  encodeHex_bad heven (scan_of_firstOffender isHex_iff_isHexChar _ _ h)

theorem map_mh_hexVal {S : List Byte} (h : ∀ c ∈ S, IsHexChar c) :
    (S.map fun c => mh (hexVal c)) = S.map fun c => charOf (hexDigits.idxOf (lower c)) :=
  List.map_congr_left fun c hc => by rw [mh_eq_charOf, hexVal_toNat (h c hc)]

/-- Settles O38: parity, then the digits, then each digit's character. -/
theorem mhEncodeHexRule : Obligations.MhEncodeHexRule := by
  unfold Obligations.MhEncodeHexRule
  refine ⟨decodeWord_encodeWord .mhEncodeHex, rangeChecked_of_exec exec_mhEncodeHex, fun s hlen => ?_⟩
  have hexec := exec_mhEncodeHex s
  simp only [← input_length s]
  exact ⟨fun hodd => exec_of_error hexec hlen (encodeHex_odd hodd),
    fun heven k hk => exec_of_error hexec hlen (encodeHex_of_firstOffender heven hk),
    fun heven hhex => map_mh_hexVal hhex ▸ answersOut_of_ok hexec hlen (encodeHex_of_forall_isHexChar heven hhex)⟩

/-- Settles O39: the encoding of bytes cannot fail. -/
theorem mhEncodeBytesRule : Obligations.MhEncodeBytesRule := by
  unfold Obligations.MhEncodeBytesRule
  refine ⟨decodeWord_encodeWord .mhEncodeBytes, rangeChecked_of_exec exec_mhEncodeBytes, fun s hlen => ⟨?_, ?_⟩⟩
  · rw [modhexOf_length, input_length]
  · rw [← mhBytes_eq_modhexOf]
    exact answersOut_of_ok (exec_mhEncodeBytes s) hlen rfl

/-! ### MH_RANDOM (R145) -/

theorem checkRandomLen_long {n : Nat} (h : 512 < n) : checkRandomLen n = .error (err0 .argumentRange 2) := by
  simp [checkRandomLen, Config.outSize, h]

theorem checkRandomLen_odd {n : Nat} (h : n ≤ 512) (hodd : n % 2 = 1) :
    checkRandomLen n = .error (err0 .invalidModhexLength 5) := by
  simp [checkRandomLen, Config.outSize, Nat.not_lt.mpr h, hodd]

theorem checkRandomLen_ok {n : Nat} (h : n ≤ 512) (heven : n % 2 = 0) : checkRandomLen n = .ok () := by
  simp [checkRandomLen, Config.outSize, Nat.not_lt.mpr h, heven]

section

variable {s : State}

theorem mhRandom_error {x : CmdError} (h : checkRandomLen s.arg.toNat = .error x) : mhRandom s = raise x s := by
  simp only [mhRandom, argLength, h]

theorem mhRandom_zero (h : s.arg = 0) : mhRandom s = complete (writeOut [] s) := by
  simp [mhRandom, argLength, h, checkRandomLen_ok]

variable (hcheck : checkRandomLen s.arg.toNat = .ok ()) (hpos : 0 < s.arg.toNat)

include hcheck hpos

theorem mhRandom_fail (h : nextEntropy (s.arg.toNat / 2) s = none) :
    mhRandom s = raise (err0 .randomSourceFailure 0) (popEntropy s) := by
  simp only [mhRandom, argLength, hcheck, hpos.ne', if_false, h]

theorem mhRandom_some {b : List Byte} (h : nextEntropy (s.arg.toNat / 2) s = some b) :
    mhRandom s = complete (writeOut (modhexOf b) (popEntropy s)) := by
  simp only [mhRandom, argLength, hcheck, hpos.ne', if_false, h, mhBytes_eq_modhexOf]

end

/-- Settles O41: the checks in their order, then the request, which the length 0 does not make. -/
theorem mhRandomRule : Obligations.MhRandomRule := by
  unfold Obligations.MhRandomRule
  refine ⟨decodeWord_encodeWord .mhRandom, fun s => ?_⟩
  simp only [exec_mhRandom]
  refine ⟨fun hlong => ?_, fun hle hodd => ?_, fun hzero => ?_, fun hpos hle heven => ⟨fun hfail => ?_, fun b hb => ?_⟩⟩
  · exact congrArg _ (mhRandom_error (checkRandomLen_long hlong))
  · exact congrArg _ (mhRandom_error (checkRandomLen_odd hle hodd))
  · exact answersOut_of_exec (congrArg _ (mhRandom_zero hzero)) rfl
  · exact congrArg _ (mhRandom_fail (checkRandomLen_ok hle heven) hpos hfail)
  · have hlen : b.length = s.arg.toNat / 2 := nextEntropy_length hb
    have hne : b ≠ [] := List.ne_nil_of_length_pos (by omega)
    refine ⟨?_, modhex_modhexOf hne, ?_⟩
    · rw [modhexOf_length]
      omega
    · exact answersOut_of_exec (congrArg _ (mhRandom_some (checkRandomLen_ok hle heven) hpos hb)) rfl

end Sys2Proof.Proofs
end

/-! CRC-16 (O42 to O44): the model's register as the number of R180's algorithm, and the residue of a message that carries its own CRC. -/

section

namespace Sys2Proof.Proofs

open Sys2Proof.Machine Sys2Proof.Claims

/-! ### The register as a number (R180) -/

theorem getLsbD_fifteen_iff (c : BitVec 16) : c.getLsbD 15 = true ↔ c.toNat / 32768 % 2 = 1 := by
  rw [getLsbD_eq_toNat_div, beq_iff_eq]
  rfl

theorem toNat_shiftLeft_one (c : BitVec 16) : (c <<< 1).toNat = c.toNat * 2 % 65536 := by
  rw [BitVec.toNat_shiftLeft, Nat.shiftLeft_eq, Nat.pow_one]

theorem crcRound_toNat (c : BitVec 16) : (crcRound c).toNat = crcRoundNat c.toNat := by
  unfold crcRound crcRoundNat
  by_cases htop : c.getLsbD 15 = true
  · rw [if_pos htop, if_pos ((getLsbD_fifteen_iff c).mp htop), BitVec.toNat_xor, toNat_shiftLeft_one]
    exact (Nat.xor_mod_two_pow (n := 16)).symm
  · rw [if_neg htop, if_neg (htop ∘ (getLsbD_fifteen_iff c).mpr), toNat_shiftLeft_one]

theorem crcRounds_toNat (n : Nat) (c : BitVec 16) :
    (crcRounds n c).toNat = (List.replicate n ()).foldl (fun c _ => crcRoundNat c) c.toNat := by
  induction n generalizing c with
  | zero => rfl
  | succ n ih => rw [crcRounds, ih, crcRound_toNat, List.replicate_succ, List.foldl_cons]

/-- A byte in the top 8 bits of the register. -/
theorem topByte_toNat (b : Byte) : (b.zeroExtend 16 <<< 8).toNat = b.toNat * 256 := by
  have hb := b.isLt
  rw [BitVec.toNat_shiftLeft, BitVec.toNat_setWidth, Nat.shiftLeft_eq]
  omega

theorem crcByte_toNat (c : BitVec 16) (b : Byte) : (crcByte c b).toNat = crcByteNat c.toNat b := by
  rw [crcByte, crcRounds_toNat, BitVec.toNat_xor, topByte_toNat, crcByteNat]

theorem crcFrom_toNat (c : BitVec 16) (bs : List Byte) : (crcFrom c bs).toNat = bs.foldl crcByteNat c.toNat := by
  unfold crcFrom
  induction bs generalizing c with
  | nil => rfl
  | cons b bs ih => rw [List.foldl_cons, List.foldl_cons, ih, crcByte_toNat]

theorem crc16_toNat (bs : List Byte) : (crc16 bs).toNat = crcNat bs := crcFrom_toNat 0xFFFF bs

theorem crc16_eq_ofNat (bs : List Byte) : crc16 bs = BitVec.ofNat 16 (crcNat bs) :=
  eq_ofNat_of_toNat_eq (crc16_toNat bs)

theorem crcNat_lt (bs : List Byte) : crcNat bs < 2 ^ 16 := crc16_toNat bs ▸ (crc16 bs).isLt

/-! ### The commands (R182, R183) -/

theorem exec_crc16 (s : State) :
    exec .crc16 s = .next (runString (fun S => .ok (crc16 S)) setResCrc s) := rfl

theorem exec_crc16Verify (s : State) :
    exec .crc16Verify s = .next (runString (fun S => .ok (crc16 S == argCrc s)) setResBool s) := rfl

/-- Settles O42: the register is the algorithm's number, byte by byte and round by round. -/
theorem crc16Rule : Obligations.Crc16Rule := by
  unfold Obligations.Crc16Rule
  refine ⟨decodeWord_encodeWord .crc16, rangeChecked_of_exec exec_crc16, fun s hlen => ⟨crcNat_lt _, ?_⟩⟩
  rw [← crc16_eq_ofNat]
  exact exec_of_ok (exec_crc16 s) hlen rfl

theorem argCrc_toNat (s : State) : (argCrc s).toNat = s.arg.toNat % 65536 := by
  rw [argCrc, toNat_extract_eq, Nat.pow_zero, Nat.div_one]
  rfl

/-- The comparison with ARG[15:0] is one of numbers (R27). -/
theorem crc16_beq_argCrc (S : List Byte) (s : State) :
    (crc16 S == argCrc s) = decide (crcNat S = s.arg.toNat % 65536) := by
  rw [Bool.beq_eq_decide_eq, ← crc16_toNat, ← argCrc_toNat]
  exact decide_eq_decide.mpr BitVec.toNat_inj.symm

/-- Settles O43: the comparison is the only effect, and it cannot fail. -/
theorem crc16VerifyRule : Obligations.Crc16VerifyRule := by
  unfold Obligations.Crc16VerifyRule
  refine ⟨decodeWord_encodeWord .crc16Verify, rangeChecked_of_exec exec_crc16Verify, fun s hlen => ?_⟩
  rw [← crc16_beq_argCrc]
  exact exec_of_ok (exec_crc16Verify s) hlen rfl

/-! ### The residue of a message with its CRC (R180) -/

/-- The polynomial enters only when the top bit is set. -/
theorem crcRound_of_lt {c : BitVec 16} (h : c.toNat < 2 ^ 15) : crcRound c = c <<< 1 := by
  have htop : ¬ c.getLsbD 15 = true := by
    rw [getLsbD_fifteen_iff]
    omega
  rw [crcRound, if_neg htop]

/-- Rounds that shift no set bit out of the register only shift it. -/
theorem crcRounds_of_lt {n : Nat} {c : BitVec 16} (h : c.toNat * 2 ^ n < 2 ^ 16) : crcRounds n c = c <<< n := by
  induction n generalizing c with
  | zero => exact (BitVec.shiftLeft_zero c).symm
  | succ n ih =>
    have hdouble : c.toNat * 2 * 2 ^ n < 2 ^ 16 := by rwa [Nat.mul_assoc, ← Nat.pow_succ']
    have hlt : c.toNat * 2 < 2 ^ 16 := Nat.lt_of_le_of_lt (Nat.le_mul_of_pos_right _ (Nat.two_pow_pos n)) hdouble
    have hshift : (c <<< 1).toNat = c.toNat * 2 := (toNat_shiftLeft_one c).trans (Nat.mod_eq_of_lt hlt)
    rw [crcRounds, crcRound_of_lt (by omega), ih (hshift ▸ hdouble), ← BitVec.shiftLeft_add, Nat.add_comm]

/-- XOR with the register's own high byte leaves its low byte. -/
theorem xor_highByte (c : BitVec 16) :
    c ^^^ ((c.extractLsb' 8 8).zeroExtend 16 <<< 8) = (c.extractLsb' 0 8).zeroExtend 16 := by
  ext i hi
  by_cases h8 : i < 8
  · simp [h8, BitVec.getLsbD_eq_getElem hi]
  · simp [h8, BitVec.getLsbD_eq_getElem hi, show i - 8 < 8 by omega, show 8 + (i - 8) = i by omega]

/-- The register's own high byte clears its top half; the rounds then shift the low byte up. -/
theorem crcByte_highByte (c : BitVec 16) :
    crcByte c (c.extractLsb' 8 8) = (c.extractLsb' 0 8).zeroExtend 16 <<< 8 := by
  have hlt : ((c.extractLsb' 0 8).zeroExtend 16).toNat * 2 ^ 8 < 2 ^ 16 := by
    have := (c.extractLsb' 0 8).isLt
    rw [BitVec.toNat_setWidth]
    omega
  rw [crcByte, xor_highByte, crcRounds_of_lt hlt]

/-- A byte that stands alone in the top half clears the register. -/
theorem crcByte_topByte (b : Byte) : crcByte (b.zeroExtend 16 <<< 8) b = 0 := by
  rw [crcByte, BitVec.xor_self]
  rfl

theorem crc16_append (bs cs : List Byte) : crc16 (bs ++ cs) = crcFrom (crc16 bs) cs := List.foldl_append

/-- Settles O44: the high byte moves the low byte to the top half, where the low byte clears it. -/
theorem crcOfMessageWithItsCrcIsZero : Obligations.CrcOfMessageWithItsCrcIsZero := by
  unfold Obligations.CrcOfMessageWithItsCrcIsZero
  intro bs
  rw [crc16_append, crcFrom, List.foldl_cons, List.foldl_cons, List.foldl_nil, crcByte_highByte, crcByte_topByte]

end Sys2Proof.Proofs
end

/-! AES-128 (O45 to O49): the S-box against its definition, the operations of a round by cells, the key expansion word by word, what the rounds lose (nothing), and AES_ENC. -/

section

namespace Sys2Proof.Proofs

open Sys2Proof.Machine Sys2Proof.Claims

/-! ### The S-box (R203) -/

/-- The inverse of the S-box's affine map. -/
def sboxUnaffine (c : Byte) : Byte := c.rotateLeft 1 ^^^ c.rotateLeft 3 ^^^ c.rotateLeft 6 ^^^ 0x05

theorem sboxAffine_sboxUnaffine : ∀ c : Byte, sboxAffine (sboxUnaffine c) = c := by decide +kernel

/-- The table, with the affine map taken off, is the inverse in GF(2^8). -/
theorem gfMul_sboxUnaffine_sbox : ∀ a : Byte, a ≠ 0 → gfMul a (sboxUnaffine (sbox a)) = 1 := by decide +kernel

/-- Settles O45: the inverse of each byte is read off the table. -/
theorem sboxIsItsDefinition : Obligations.SboxIsItsDefinition := by
  unfold Obligations.SboxIsItsDefinition
  exact ⟨by decide, fun a ha =>
    ⟨sboxUnaffine (sbox a), gfMul_sboxUnaffine_sbox a ha, (sboxAffine_sboxUnaffine (sbox a)).symm⟩⟩

/-! ### Round operations by cells (R204 to R206) -/

theorem gfMul_two : ∀ a : Byte, gfMul 2 a = xtime a := by decide +kernel

theorem gfMul_three : ∀ a : Byte, gfMul 3 a = times3 a := by decide +kernel

theorem cell_subBytes {s : List Byte} {r c : Nat} (h : r + 4 * c < s.length) :
    cell (subBytes s) r c = sbox (cell s r c) := by
  simp [cell, subBytes, List.getD, h]

/-- The four rows of a mixed column are one row, turned (R206). -/
theorem mixRow_cyclic (a : Nat → Byte) {r : Nat} (hr : r < 4) : mixRow r (a 0) (a 1) (a 2) (a 3) =
    xtime (a r) ^^^ times3 (a ((r + 1) % 4)) ^^^ a ((r + 2) % 4) ^^^ a ((r + 3) % 4) := by
  interval_cases r <;> simp only [mixRow, Nat.reduceAdd, Nat.reduceMod] <;> ac_rfl

/-- Settles O46: each operation is read at one cell. -/
theorem roundOperationsByRowAndColumn : Obligations.RoundOperationsByRowAndColumn := by
  unfold Obligations.RoundOperationsByRowAndColumn
  intro s hs r c hr hc
  refine ⟨cell_subBytes (by omega), cell_grid _ hr hc, ?_⟩
  rw [mixColumns, cell_grid _ hr hc, mixRow_cyclic (cell s · c) hr, gfMul_two, gfMul_three]

/-! ### The key expansion (R207 to R209) -/

theorem exists_bytes_of_length_four {t : List Byte} (h : t.length = 4) : ∃ a b c d, t = [a, b, c, d] := by
  match t, h with
  | [a, b, c, d], _ => exact ⟨a, b, c, d, rfl⟩

theorem keyTerm_length (i : Nat) {t : List Byte} (h : t.length = 4) : (keyTerm i t).length = 4 := by
  unfold keyTerm
  split
  · rfl
  · exact h

theorem keyTerm_of_mod_ne {i : Nat} (h : i % 4 ≠ 0) (t : List Byte) : keyTerm i t = t := by
  simp [keyTerm, h]

/-- The first word of a round key is mixed with the round's constant, as the model mixes it. -/
theorem keyTerm_four_mul (k : Nat) {t : List Byte} (h : t.length = 4) :
    keyTerm (4 * (k + 1)) t = keyMix (rconTable.getD k 0) t := by
  obtain ⟨a, b, c, d, rfl⟩ := exists_bytes_of_length_four h
  simp [keyTerm, keyMix, roundConstants, rconTable]

/-- The next round key from a round key's four words (R208). -/
theorem nextRoundKey_append (r : Byte) {a b c d : List Byte} (ha : a.length = 4) (hb : b.length = 4) (hc : c.length = 4) :
    nextRoundKey r (a ++ b ++ c ++ d) =
      xorBytes a (keyMix r d) ++ xorBytes b (xorBytes a (keyMix r d)) ++
        xorBytes c (xorBytes b (xorBytes a (keyMix r d))) ++
        xorBytes d (xorBytes c (xorBytes b (xorBytes a (keyMix r d)))) := by
  obtain ⟨_, _, _, _, rfl⟩ := exists_bytes_of_length_four ha
  obtain ⟨_, _, _, _, rfl⟩ := exists_bytes_of_length_four hb
  obtain ⟨_, _, _, _, rfl⟩ := exists_bytes_of_length_four hc
  rfl

section

variable {key : List Byte} {w : Nat → List Byte} (hw : IsKeyExpansion key w)

include hw

theorem word_eq_xorBytes {i : Nat} (h4 : 4 ≤ i) (hi : i < 44) :
    w i = xorBytes (w (i - 4)) (keyTerm i (w (i - 1))) := by
  obtain ⟨-, hnext⟩ := hw
  exact hnext i h4 hi

theorem word_length {i : Nat} (hi : i < 44) : (w i).length = 4 := by
  induction i using Nat.strong_induction_on with
  | _ i ih =>
    rcases Nat.lt_or_ge i 4 with h4 | h4
    · obtain ⟨hfirst, -⟩ := hw
      rw [hfirst i h4]
      rfl
    · rw [word_eq_xorBytes hw h4 hi, xorBytes_length, ih (i - 4) (by omega) (by omega),
        keyTerm_length i (ih (i - 1) (by omega) (by omega)), Nat.min_self]

theorem roundKeyOf_zero (hkey : key.length = 16) : roundKeyOf w 0 = key := by
  obtain ⟨hfirst, -⟩ := hw
  rw [roundKeyOf, hfirst _ (by decide), hfirst _ (by decide), hfirst _ (by decide), hfirst _ (by decide)]
  apply List.ext_getElem
  · simp [hkey]
  · intro i _ hi
    rw [hkey] at hi
    interval_cases i <;> simp [hkey]

/-- The first word of a round key after round key 0. -/
theorem word_four_mul {k : Nat} (hk : k < 10) :
    w (4 * (k + 1)) = xorBytes (w (4 * k)) (keyMix (rconTable.getD k 0) (w (4 * k + 3))) := by
  rw [← keyTerm_four_mul k (word_length hw (by omega))]
  exact word_eq_xorBytes hw (i := 4 * (k + 1)) (by omega) (by omega)

/-- The other three words of a round key: no rotation, substitution or constant. -/
theorem word_four_mul_add {k j : Nat} (hk : k < 10) (hj : j < 3) :
    w (4 * (k + 1) + (j + 1)) = xorBytes (w (4 * k + (j + 1))) (w (4 * (k + 1) + j)) := by
  have h := word_eq_xorBytes hw (i := 4 * (k + 1) + (j + 1)) (by omega) (by omega)
  rwa [keyTerm_of_mod_ne (by omega), show 4 * (k + 1) + (j + 1) - 4 = 4 * k + (j + 1) by omega] at h

theorem roundKeyOf_succ {k : Nat} (hk : k < 10) :
    roundKeyOf w (k + 1) = nextRoundKey (rconTable.getD k 0) (roundKeyOf w k) := by
  have h0 := word_four_mul hw hk
  have h1 : w (4 * (k + 1) + 1) = xorBytes (w (4 * k + 1)) (w (4 * (k + 1))) :=
    word_four_mul_add hw hk (j := 0) (by decide)
  have h2 : w (4 * (k + 1) + 2) = xorBytes (w (4 * k + 2)) (w (4 * (k + 1) + 1)) :=
    word_four_mul_add hw hk (j := 1) (by decide)
  have h3 : w (4 * (k + 1) + 3) = xorBytes (w (4 * k + 3)) (w (4 * (k + 1) + 2)) :=
    word_four_mul_add hw hk (j := 2) (by decide)
  rw [roundKeyOf, roundKeyOf, nextRoundKey_append _ (word_length hw (by omega)) (word_length hw (by omega))
    (word_length hw (by omega)), h3, h2, h1, h0]

end

/-- Round keys each of which is the next one of that before, from the first on. -/
theorem roundKeysFrom_eq_map (rs : List Byte) {f : Nat → List Byte}
    (h : ∀ i, i < rs.length → f (i + 1) = nextRoundKey (rs.getD i 0) (f i)) :
    roundKeysFrom (f 0) rs = (List.range rs.length).map fun i => f (i + 1) := by
  induction rs generalizing f with
  | nil => rfl
  | cons r rs ih =>
    have hfirst : f 1 = nextRoundKey r (f 0) := h 0 (Nat.zero_lt_succ _)
    have hrest := ih (f := fun i => f (i + 1)) fun i hi => h (i + 1) (Nat.succ_lt_succ hi)
    rw [roundKeysFrom, ← hfirst, hrest, List.length_cons, List.range_succ_eq_map, List.map_cons, List.map_map]
    rfl

theorem roundKeys_eq_map {key : List Byte} {w : Nat → List Byte} (hkey : key.length = 16) (hw : IsKeyExpansion key w) :
    roundKeys key = (List.range 10).map fun i => roundKeyOf w (i + 1) := by
  rw [roundKeys, ← roundKeyOf_zero hw hkey]
  exact roundKeysFrom_eq_map rconTable fun k hk => roundKeyOf_succ hw hk

/-! ### The rounds (R210) -/

theorem cipherRounds_cons {keys : List (List Byte)} (h : keys ≠ []) (s k : List Byte) :
    cipherRounds s (k :: keys) = cipherRounds (xorBytes (mixColumns (shiftRows (subBytes s))) k) keys := by
  rw [cipherRounds]
  exact h

/-- States each of which is a full round of the one before; the round after the last of them is without MixColumns. -/
theorem cipherRounds_eq (n : Nat) {s K : Nat → List Byte}
    (h : ∀ k, k < n → s (k + 1) = xorBytes (mixColumns (shiftRows (subBytes (s k)))) (K k)) :
    cipherRounds (s 0) ((List.range (n + 1)).map K) = xorBytes (shiftRows (subBytes (s n))) (K n) := by
  induction n generalizing s K with
  | zero => rfl
  | succ n ih =>
    have hfirst := h 0 (Nat.zero_lt_succ n)
    have hrest := ih (s := fun k => s (k + 1)) (K := fun k => K (k + 1)) fun k hk => h (k + 1) (Nat.succ_lt_succ hk)
    rw [List.range_succ_eq_map, List.map_cons, List.map_map, cipherRounds_cons (by simp), ← hfirst]
    exact hrest

/-- Settles O47: the words of the expansion make the round keys, and the rounds run over them. -/
theorem cipherRunsItsRoundsOverTheExpandedKey : Obligations.CipherRunsItsRoundsOverTheExpandedKey := by
  unfold Obligations.CipherRunsItsRoundsOverTheExpandedKey
  intro key block w s hkey _ hw
  have hzero := roundKeyOf_zero hw hkey
  have hkeys := roundKeys_eq_map hkey hw
  refine ⟨?_, fun hstart hround => ?_⟩
  · rw [List.range_succ_eq_map, List.map_cons, List.map_map, hzero, hkeys]
    rfl
  · have hstart' : xorBytes block key = s 0 := by rw [hstart, hzero, xorBytes]
    rw [aes128, hkeys, hstart']
    exact cipherRounds_eq 9 fun k hk => hround (k + 1) (Nat.succ_pos k) hk

/-! ### The cipher loses nothing -/

/-- What a round does before MixColumns loses nothing of a block. -/
theorem shiftRows_subBytes_injective {s t : List Byte} (hs : s.length = 16) (ht : t.length = 16)
    (h : shiftRows (subBytes s) = shiftRows (subBytes t)) : s = t :=
  subBytes_injective (shiftRows_injective (by simpa [subBytes]) (by simpa [subBytes]) h)

theorem cipherRounds_injective {ks : List (List Byte)} (hk : ∀ k ∈ ks, k.length = 16) {s t : List Byte}
    (hs : s.length = 16) (ht : t.length = 16) (h : cipherRounds s ks = cipherRounds t ks) : s = t := by
  induction ks generalizing s t with
  | nil => exact h
  | cons k ks ih =>
    obtain ⟨hklen, hkslen⟩ := List.forall_mem_cons.mp hk
    by_cases hks : ks = []
    · subst hks
      exact shiftRows_subBytes_injective hs ht (xorBytes_injective (by simp [hklen]) (by simp [hklen]) h)
    · rw [cipherRounds_cons hks, cipherRounds_cons hks] at h
      have hxor := ih hkslen (by simp [hklen]) (by simp [hklen]) h
      have hmix := xorBytes_injective (by simp [hklen]) (by simp [hklen]) hxor
      exact shiftRows_subBytes_injective hs ht (mixColumns_injective (by simp) (by simp) hmix)

/-- Settles O48: each round key is XORed in, and neither that nor a round's operations lose anything. -/
theorem cipherIsInjective : Obligations.CipherIsInjective := by
  unfold Obligations.CipherIsInjective
  intro key x y hkey hx hy h
  have hxor : xorBytes x key = xorBytes y key :=
    cipherRounds_injective (roundKeysFrom_length _ _ hkey) (by simp [hx, hkey]) (by simp [hy, hkey]) h
  exact xorBytes_injective (by rw [hx, hkey]) (by rw [hy, hkey]) hxor

/-! ### AES_ENC (R212) -/

theorem exec_aesEnc (s : State) : exec .aesEnc s = .next (aesEnc s) := rfl

section

variable {s : State} (hv : s.tok.valid = true)

include hv

theorem aesEnc_of_inLen_ne (h : s.inLen ≠ 16) : aesEnc s = failed .argumentRange 4 0 s := by
  have hlen : inLength s ≠ 16 := fun h16 => h (BitVec.eq_of_toNat_eq h16)
  simp only [aesEnc, checkToken_ok hv, checkBlockLen, if_pos hlen]
  rfl

theorem aesEnc_of_inLen_eq (h : s.inLen = 16) :
    aesEnc s = complete (writeOut (aes128 (fieldBytes s.tok.secretKey) (Claims.input s)) (readOnce s)) := by
  have hlen : inLength s = 16 := congrArg BitVec.toNat h
  simp only [aesEnc, checkToken_ok hv, checkBlockLen, hlen, ne_eq, not_true_eq_false, if_false, Claims.input, inputString]
  rfl

end

/-- Settles O49: the token is asked for first, then the length, and the block is the whole input string. -/
theorem aesEncRule : Obligations.AesEncRule := by
  unfold Obligations.AesEncRule
  refine ⟨decodeWord_encodeWord .aesEnc, fun s => ⟨exec_without_token (by decide), fun hv hne => ?_, fun hv heq => ?_⟩⟩
  · rw [exec_aesEnc, aesEnc_of_inLen_ne hv hne]
  · refine ⟨aes128_length _ _ (fieldBytes_length _) ?_, ?_⟩
    · rw [input_length, heq]
      rfl
    · exact answersOut_of_exec (congrArg _ (aesEnc_of_inLen_eq hv heq)) rfl

end Sys2Proof.Proofs
end

/-! The commands that need a token (O17, O54 to O57): the accessors and TOK_ADVANCE, then the record and the OTP of TOK_GENERATE. -/

section

namespace Sys2Proof.Proofs

open Sys2Proof.Machine Sys2Proof.Claims

/-! ### The check of a token, TOK_ADVANCE and the accessors (R270 to R274) -/

/-- Settles O17: each of the six commands checks for a token first. -/
theorem tokenCommandsNeedAToken : Obligations.TokenCommandsNeedAToken := by
  unfold Obligations.TokenCommandsNeedAToken
  exact fun _ _ hi hv => exec_without_token hi hv

theorem add_one_eq_ofNat {n : Nat} (x : BitVec n) : x + 1 = BitVec.ofNat n ((x.toNat + 1) % 2 ^ n) := by
  apply eq_ofNat_of_toNat_eq
  simp

theorem exec_tokAdvance_of_valid {s : State} (hv : s.tok.valid = true) :
    exec .tokAdvance s = .next (complete (advanceToken () s)) := by
  rw [← finish_ok, ← checkToken_ok hv]
  rfl

/-- Settles O56: the check, then the two fields that the power cycle writes. -/
theorem tokAdvanceRule : Obligations.TokAdvanceRule := by
  unfold Obligations.TokAdvanceRule
  refine ⟨decodeWord_encodeWord .tokAdvance, fun s => ⟨exec_without_token (by decide), fun hv => ?_⟩⟩
  rw [exec_tokAdvance_of_valid hv, advanceToken, nextCounter, add_one_eq_ofNat]
  rfl

theorem exportField_of_valid {s : State} (hv : s.tok.valid = true) (field : List Byte) :
    exportField field s = complete (writeOut field s) := by
  rw [exportField, checkToken_ok hv, finish_ok]

/-- With a token an accessor answers its field. -/
theorem answersOut_of_exportField {i : Instr} {s : State} {field : List Byte} (hv : s.tok.valid = true)
    (h : exec i s = .next (exportField field s)) : AnswersOut i s s field :=
  answersOut_of_exec (h.trans (congrArg _ (exportField_of_valid hv field))) rfl

/-- Settles O57: the three accessors are one operation on three fields. -/
theorem accessorsCopyTheirField : Obligations.AccessorsCopyTheirField := by
  unfold Obligations.AccessorsCopyTheirField
  have hneeds : ∀ i ∈ [Instr.tokPubid, .tokExportKey, .tokExportPrivid], i ∈ needsToken := by decide
  refine ⟨decodeWord_encodeWord .tokPubid, decodeWord_encodeWord .tokExportKey, decodeWord_encodeWord .tokExportPrivid,
    fun s => ⟨fun hv i hi => exec_without_token (hneeds i hi) hv, fun hv => ?_⟩⟩
  exact ⟨answersOut_of_exportField hv rfl, fieldBytes_length _, answersOut_of_exportField hv rfl, fieldBytes_length _,
    answersOut_of_exportField hv rfl, fieldBytes_length _⟩

/-! ### The record (R262, R263) -/

section

variable {priv rnd : List Byte} (hpriv : priv.length = 6) (hrnd : rnd.length = 2) (ctr : BitVec 16) (ts : BitVec 24)
  (su : BitVec 8)

include hpriv hrnd

theorem recordBody_eq_recordBytes :
    recordBody priv ctr ts su rnd = recordBytes priv ctr.toNat ts.toNat su.toNat rnd := by
  match priv, rnd, hpriv, hrnd with
  | [_, _, _, _, _, _], [_, _], _, _ =>
    simp [recordBody, recordBytes, extractLsb'_eq_ofNat]

theorem record_eq_recordOf : record priv ctr ts su rnd = recordOf priv ctr.toNat ts.toNat su.toNat rnd := by
  rw [record, recordBody_eq_recordBytes hpriv hrnd, crcField, extractLsb'_eq_ofNat, extractLsb'_eq_ofNat, crc16_toNat,
    Nat.pow_zero, Nat.div_one]
  rfl

end

/-! ### TOK_GENERATE (R260 to R268) -/

theorem exec_tokGenerate (s : State) : exec .tokGenerate s = .next (tokGenerate s) := rfl

/-- The request after the mutation is the one after the time sample: the mutation asks for nothing else. -/
theorem nextEntropy_refresh (n : Nat) (s : State) : nextEntropy n (refresh s) = nextEntropy n (popTime s) := rfl

theorem tokGenerate_fail {s : State} (hv : s.tok.valid = true) (h : nextEntropy 2 (popTime s) = none) :
    tokGenerate s = raise (err0 .randomSourceFailure 0) (popEntropy (refresh s)) := by
  simp only [tokGenerate, checkToken_ok hv, nextEntropy_refresh, h]

theorem tokGenerate_some {s : State} (hv : s.tok.valid = true) {rnd : List Byte}
    (h : nextEntropy 2 (popTime s) = some rnd) :
    tokGenerate s = complete (setAudit rnd (writeOut ((refresh s).tok.otp rnd) (popEntropy (refresh s)))) := by
  simp only [tokGenerate, checkToken_ok hv, nextEntropy_refresh, h]

theorem refresh_timestamp_toNat (s : State) : (refresh s).tok.timestamp.toNat = nextTime s % 2 ^ 24 :=
  BitVec.toNat_ofNat _ _

theorem refresh_sessionUse_toNat (s : State) : (refresh s).tok.sessionUse.toNat = (s.tok.sessionUse.toNat + 1) % 256 :=
  BitVec.toNat_add _ _

/-- All that a TOK_GENERATE writes with an OTP of 44 characters (R265, R266). -/
theorem complete_setAudit_writeOut (s : State) (rnd : List Byte) {otp : List Byte} (hlen : otp.length = 44) :
    complete (setAudit rnd (writeOut otp (popEntropy (refresh s)))) =
      { succeeded (popEntropy (popTime s)) with
        tok := { s.tok with sessionUse := s.tok.sessionUse + 1, timestamp := BitVec.ofNat 24 (nextTime s) }
        outLen := 44
        mem := Memory.writeBytes s.mem Config.outBase otp
        resCounter := s.tok.counter
        resSession := s.tok.sessionUse + 1
        resTimestamp := BitVec.ofNat 24 (nextTime s)
        resCrc := crc16 ((refresh s).tok.body rnd) } := by
  simp only [complete, setAudit, writeOut, hlen, succeeded, popEntropy_tok, popEntropy_mem]
  rfl

/-- The audited CRC is the one over the record's bytes by offset (R263, R266). -/
theorem crc16_body_refresh (s : State) {rnd : List Byte} (hrnd : rnd.length = 2) :
    crc16 ((refresh s).tok.body rnd) = BitVec.ofNat 16 (crcNat (recordBytes (fieldBytes s.tok.privateId)
      s.tok.counter.toNat (nextTime s % 2 ^ 24) ((s.tok.sessionUse.toNat + 1) % 256) rnd)) := by
  rw [crc16_eq_ofNat, Token.body, recordBody_eq_recordBytes (fieldBytes_length _) hrnd, refresh_timestamp_toNat,
    refresh_sessionUse_toNat]
  rfl

/-- The OTP of the mutated token from the record by offsets (R264, R265). -/
theorem otp_refresh (s : State) {rnd : List Byte} (hrnd : rnd.length = 2) :
    (refresh s).tok.otp rnd = fieldBytes s.tok.publicId ++ modhexOf (aes128 (fieldBytes s.tok.secretKey)
      (recordOf (fieldBytes s.tok.privateId) s.tok.counter.toNat (nextTime s % 2 ^ 24)
        ((s.tok.sessionUse.toNat + 1) % 256) rnd)) := by
  rw [Token.otp, mhBytes_eq_modhexOf, record_eq_recordOf (fieldBytes_length _) hrnd, refresh_timestamp_toNat,
    refresh_sessionUse_toNat]
  rfl

/-- Settles O54: the draw fails or answers; the record's numbers are those of the mutated token. -/
theorem tokGenerateRule : Obligations.TokGenerateRule := by
  unfold Obligations.TokGenerateRule
  refine ⟨decodeWord_encodeWord .tokGenerate, fun s => ⟨exec_without_token (by decide), fun hv hnone => ?_,
    fun rnd hv hsome => ?_⟩⟩
  · rw [exec_tokGenerate, tokGenerate_fail hv hnone]
    rfl
  · have hrnd : rnd.length = 2 := nextEntropy_length hsome
    refine ⟨Memory.writeBytes s.mem Config.outBase ((refresh s).tok.otp rnd), ?_, ?_⟩
    · rw [exec_tokGenerate, tokGenerate_some hv hsome, complete_setAudit_writeOut s rnd (otp_length _ _ hrnd),
        crc16_body_refresh s hrnd]
    · rw [← otp_refresh s hrnd]
      exact outHolds_writeBytes _ _

/-- A TOK_GENERATE without error had a token and an answer to its request, and has put the OTP in OUT. -/
theorem tokGenerate_succeeds {s : State} (hok : (tokGenerate s).err = false) :
    s.tok.valid = true ∧ ∃ rnd, rnd.length = 2 ∧ (tokGenerate s).outLen = 44 ∧
      (tokGenerate s).mem = Memory.writeBytes s.mem Config.outBase ((refresh s).tok.otp rnd) := by
  cases hv : s.tok.valid with
  | false => simp [tokGenerate, checkToken_error hv] at hok
  | true =>
    cases hdraw : nextEntropy 2 (popTime s) with
    | none => simp [tokGenerate_fail hv hdraw] at hok
    | some rnd =>
      have hrnd : rnd.length = 2 := nextEntropy_length hdraw
      refine ⟨rfl, rnd, hrnd, ?_⟩
      rw [tokGenerate_some hv hdraw, complete_setAudit_writeOut s rnd (otp_length _ _ hrnd)]
      exact ⟨rfl, rfl⟩

/-- An OTP is of the alphabet if its public_id is. -/
theorem otp_mem_alphabet {k : Token} (h : (fieldBytes k.publicId).all isMh = true) (rnd : List Byte) :
    ∀ c ∈ k.otp rnd, c ∈ alphabet := by
  intro c hc
  rw [← isMh_iff_mem_alphabet]
  rw [Token.otp, List.mem_append] at hc
  exact hc.elim (List.all_eq_true.mp h c) (List.all_eq_true.mp (mhBytes_isMh _) c)

/-- Settles O55: the OTP stands in OUT, and its alphabet is that of the public_id the invariant keeps. -/
theorem generatedOtpIsWellFormed : Obligations.GeneratedOtpIsWellFormed := by
  unfold Obligations.GeneratedOtpIsWellFormed
  intro s t hinv hexec hok
  rw [exec_tokGenerate] at hexec
  obtain rfl : tokGenerate s = t := by injection hexec
  obtain ⟨hv, rnd, hrnd, houtLen, hmem⟩ := tokGenerate_succeeds hok
  have hlen : ((refresh s).tok.otp rnd).length = 44 := otp_length _ _ hrnd
  have hpub : (fieldBytes (refresh s).tok.publicId).all isMh = true := publicId_isMh_of_tokenWf hinv.publicId hv
  obtain ⟨hout, -⟩ := outHolds_writeBytes s.mem ((refresh s).tok.otp rnd)
  rw [← hmem, hlen] at hout
  refine ⟨houtLen, fun i hi => ⟨_, hout i hi, ?_⟩, fun i hi => (hout i (by omega)).trans ?_⟩
  · rw [List.getD_eq_getElem _ _ (hi.trans_eq hlen.symm)]
    exact otp_mem_alphabet hpub rnd _ (List.getElem_mem _)
  · rw [Token.otp, List.getD_append _ _ _ _ (by rwa [fieldBytes_length])]
    rfl

end Sys2Proof.Proofs
end

/-! TOK_CREATE (O50 to O52): its checks on the supplied fields, and its requests against a script of answers. -/

section

namespace Sys2Proof.Proofs

open Sys2Proof.Machine Sys2Proof.Claims

/-! ### The supplied fields and their checks (R250 to R253) -/

/-- P, Q and K as the statements name them. -/
def suppliedOf (s : State) : Supplied := ⟨suppliedPub s, suppliedPriv s, suppliedKey s⟩

theorem splitSupplied_eq_suppliedOf (s : State) : splitSupplied s.cfg (inBytes s s.cfg.total) = suppliedOf s := rfl

section

variable {s : State}

theorem suppliedPub_length (h : s.cfg.pubP = true) : (suppliedPub s).length = s.cfg.pubLen.toNat := by
  simp only [suppliedPub, suppliedLen, fieldLen, h, if_true, List.length_take, inBytes_length]
  omega

theorem suppliedPriv_length (h : s.cfg.privP = true) : (suppliedPriv s).length = s.cfg.privLen.toNat := by
  simp only [suppliedPriv, suppliedLen, fieldLen, h, if_true, List.length_take, List.length_drop, inBytes_length]
  omega

theorem suppliedKey_length (h : s.cfg.keyP = true) : (suppliedKey s).length = s.cfg.keyLen.toNat := by
  simp only [suppliedKey, suppliedLen, fieldLen, h, if_true, List.length_drop, inBytes_length]
  omega

theorem suppliedPub_length_of_fits (hfit : PubFits s) (h : s.cfg.pubP = true) : (suppliedPub s).length = 12 := by
  rw [suppliedPub_length h, (hfit h).1]
  rfl

theorem suppliedPriv_length_of_fits (hfit : PrivFits s) (h : s.cfg.privP = true) : (suppliedPriv s).length = 6 := by
  rw [suppliedPriv_length h, hfit h]
  rfl

theorem suppliedKey_length_of_fits (hfit : KeyFits s) (h : s.cfg.keyP = true) : (suppliedKey s).length = 16 := by
  rw [suppliedKey_length h, hfit h]
  rfl

end

theorem whenPresent_ok {p : Bool} {r : Except CmdError Unit} (h : p = true → r = .ok ()) :
    whenPresent p r = .ok () := by
  cases p with
  | false => rfl
  | true => exact h rfl

theorem checkPublicId_of_length_ne {p : List Byte} (h : p.length ≠ 12) :
    checkPublicId p = .error (err0 .invalidPublicId 1) := if_pos h

theorem checkPublicId_of_length_eq {p : List Byte} (h : p.length = 12) :
    checkPublicId p = scan isMh .invalidPublicId 2 p := if_neg (not_not.mpr h)

theorem checkPrivateId_of_length_ne {q : List Byte} (h : q.length ≠ 6) :
    checkPrivateId q = .error (err0 .invalidPrivateId 1) := if_pos h

theorem checkPrivateId_of_length_eq {q : List Byte} (h : q.length = 6) : checkPrivateId q = .ok () :=
  if_neg (not_not.mpr h)

theorem checkSecretKey_of_length_ne {k : List Byte} (h : k.length ≠ 16) :
    checkSecretKey k = .error (err0 .invalidSecretKey 1) := if_pos h

theorem checkSecretKey_of_length_eq {k : List Byte} (h : k.length = 16) : checkSecretKey k = .ok () :=
  if_neg (not_not.mpr h)

section

variable {c : Cfg} {f : Supplied} {x : CmdError}

theorem checkSupplied_pub_error (hp : c.pubP = true) (hpub : checkPublicId f.pub = .error x) :
    checkSupplied c f = .error x := by
  rw [checkSupplied, hp, hpub]
  rfl

theorem checkSupplied_priv_error (hpub : c.pubP = true → checkPublicId f.pub = .ok ()) (hp : c.privP = true)
    (hpriv : checkPrivateId f.priv = .error x) : checkSupplied c f = .error x := by
  rw [checkSupplied, whenPresent_ok hpub, hp, hpriv]
  rfl

theorem checkSupplied_key_error (hpub : c.pubP = true → checkPublicId f.pub = .ok ())
    (hpriv : c.privP = true → checkPrivateId f.priv = .ok ()) (hp : c.keyP = true)
    (hkey : checkSecretKey f.key = .error x) : checkSupplied c f = .error x := by
  rw [checkSupplied, whenPresent_ok hpub, whenPresent_ok hpriv, hp, hkey]
  rfl

end

section

variable {s : State}

theorem checkPublicId_of_fits (hfit : PubFits s) (h : s.cfg.pubP = true) : checkPublicId (suppliedPub s) = .ok () :=
  (checkPublicId_of_length_eq (suppliedPub_length_of_fits hfit h)).trans
    (scan_ok _ _ _ _ (isMh_of_forall_mem_alphabet (hfit h).2))

theorem checkPrivateId_of_fits (hfit : PrivFits s) (h : s.cfg.privP = true) : checkPrivateId (suppliedPriv s) = .ok () :=
  checkPrivateId_of_length_eq (suppliedPriv_length_of_fits hfit h)

theorem checkSecretKey_of_fits (hfit : KeyFits s) (h : s.cfg.keyP = true) : checkSecretKey (suppliedKey s) = .ok () :=
  checkSecretKey_of_length_eq (suppliedKey_length_of_fits hfit h)

/-- A configuration that fits passes every check. -/
theorem checkSupplied_ok (hpub : PubFits s) (hpriv : PrivFits s) (hkey : KeyFits s) :
    checkSupplied s.cfg (suppliedOf s) = .ok () := by
  rw [checkSupplied, suppliedOf, whenPresent_ok (checkPublicId_of_fits hpub),
    whenPresent_ok (checkPrivateId_of_fits hpriv), whenPresent_ok (checkSecretKey_of_fits hkey)]
  rfl

/-! ### How TOK_CREATE goes on after its checks (R250) -/

theorem exec_tokCreate_long (h : 256 < suppliedLen s.cfg) : exec .tokCreate s = .next (failed .argumentRange 3 0 s) := by
  have hcheck : checkTotal s.cfg = .error (err0 .argumentRange 3) := if_pos h
  simp only [exec, execTokCreate, tokCreate, hcheck]
  rfl

variable (hlen : suppliedLen s.cfg ≤ 256)

include hlen

theorem checkTotal_ok : checkTotal s.cfg = .ok () := if_neg (Nat.not_lt.mpr hlen)

theorem exec_tokCreate_error {c : ErrCode} {d : Byte} {i : Word}
    (h : checkSupplied s.cfg (suppliedOf s) = .error ⟨c, d, i⟩) :
    exec .tokCreate s = .next (failed c d i (readOnce s)) := by
  simp only [exec, execTokCreate, tokCreate, checkTotal_ok hlen, splitSupplied_eq_suppliedOf, h]
  rfl

theorem exec_tokCreate_fits (hpub : PubFits s) (hpriv : PrivFits s) (hkey : KeyFits s) :
    exec .tokCreate s = .next (drawAndCommit s.cfg (suppliedOf s) (tick s)) := by
  simp only [exec, execTokCreate, tokCreate, checkTotal_ok hlen, splitSupplied_eq_suppliedOf,
    checkSupplied_ok hpub hpriv hkey]

end

/-- After the checks only the random source can fail (R257). -/
theorem drawAndCommit_cases (c : Cfg) (f : Supplied) (s : State) :
    (∃ t, drawAndCommit c f s = raise (err0 .randomSourceFailure 0) t) ∨ ∃ t, drawAndCommit c f s = complete t := by
  simp only [drawAndCommit]
  split
  · exact .inl ⟨_, rfl⟩
  split
  · exact .inl ⟨_, rfl⟩
  split
  · exact .inl ⟨_, rfl⟩
  split
  · exact .inl ⟨_, rfl⟩
  · exact .inr ⟨_, rfl⟩

/-- Settles O50: each check's error with the checks before it passed, and what is left after the last. -/
theorem tokCreateChecksItsConfiguration : Obligations.TokCreateChecksItsConfiguration := by
  unfold Obligations.TokCreateChecksItsConfiguration
  intro s
  refine ⟨exec_tokCreate_long, fun hlen hp hne => ?_, fun hlen hp h12 k hk => ?_, fun hlen hpub hp hne => ?_,
    fun hlen hpub hpriv hp hne => ?_, fun hlen hpub hpriv hkey => ?_⟩
  · exact exec_tokCreate_error hlen (checkSupplied_pub_error hp
      (checkPublicId_of_length_ne (ne_of_eq_of_ne (suppliedPub_length hp) (BitVec.toNat_ne.mp hne))))
  · exact exec_tokCreate_error hlen (checkSupplied_pub_error hp
      ((checkPublicId_of_length_eq ((suppliedPub_length hp).trans (congrArg BitVec.toNat h12))).trans
        (scan_of_firstOffender isMh_iff_mem_alphabet _ _ hk)))
  · exact exec_tokCreate_error hlen (checkSupplied_priv_error (checkPublicId_of_fits hpub) hp
      (checkPrivateId_of_length_ne (ne_of_eq_of_ne (suppliedPriv_length hp) (BitVec.toNat_ne.mp hne))))
  · exact exec_tokCreate_error hlen (checkSupplied_key_error (checkPublicId_of_fits hpub)
      (checkPrivateId_of_fits hpriv) hp
      (checkSecretKey_of_length_ne (ne_of_eq_of_ne (suppliedKey_length hp) (BitVec.toNat_ne.mp hne))))
  · refine ⟨_, exec_tokCreate_fits hlen hpub hpriv hkey, fun herr => ?_⟩
    obtain ⟨t, ht⟩ | ⟨t, ht⟩ := drawAndCommit_cases s.cfg (suppliedOf s) (tick s)
    · rw [ht]
      rfl
    · rw [ht] at herr
      cases herr

/-! ### The requests of TOK_CREATE against a script of answers (R254, R255) -/

/-- The state with a script of answers in the entropy port and the model's counter at `d`. -/
def scripted (d : Nat) (e : List (Option (List Byte))) (s : State) : State :=
  { s with draws := d, ports := { s.ports with entropy := e } }

theorem tick_eq_scripted (s : State) : tick s = scripted (s.draws + 1) s.ports.entropy s := rfl

theorem nextEntropy_scripted_cons (n d : Nat) {a : List Byte} (e : List (Option (List Byte))) (s : State)
    (ha : a.length = n) : nextEntropy n (scripted d (some a :: e) s) = some a := nextEntropy_scripted rfl ha

theorem nextEntropy_scripted_fail (n d : Nat) (e : List (Option (List Byte))) (s : State) :
    nextEntropy n (scripted d (none :: e) s) = none := nextEntropy_fail rfl

theorem popEntropy_scripted (d : Nat) (e : List (Option (List Byte))) (s : State) :
    popEntropy (scripted d e s) = scripted (d + 1) e.tail s := rfl

/-- The requests that a field makes: one for a field that is not supplied (R254). -/
def fieldRequests (p : Bool) (n : Nat) : List Nat := if p then [] else [n]

theorem requestSizes_eq (c : Cfg) : requestSizes c =
    fieldRequests c.pubP 6 ++ (fieldRequests c.privP 6 ++ (fieldRequests c.keyP 16 ++ [2])) := by
  simp only [requestSizes, fieldRequests, List.append_assoc]

/-- The public_id is a field whose drawn bytes are written in modhex (R254). -/
theorem publicIdOrDraw_eq (p : Bool) (l : List Byte) (s : State) :
    publicIdOrDraw p l s = (fieldOrDraw p l 6 s).map fun b => if p then b else modhexOf b := by
  cases p with
  | false => exact congrArg (Option.map · _) (funext mhBytes_eq_modhexOf)
  | true => rfl

/-- The script `e` answers the requests of the sizes `ns` by `as`, and `es` is left of it. -/
def Answers (ns : List Nat) (as : List (List Byte)) (es e : List (Option (List Byte))) : Prop :=
  as.map List.length = ns ∧ e = as.map some ++ es

/-- The script `e` answers some of the requests of the sizes `ns`, the next one by `fail`, and `es` is left of it. -/
def FailsWithin (ns : List Nat) (es e : List (Option (List Byte))) : Prop :=
  ∃ as k, k < ns.length ∧ Answers (ns.take k) as (none :: es) e

section

variable {n : Nat} {ns : List Nat} {es e : List (Option (List Byte))}

theorem answers_cons {as : List (List Byte)} (h : Answers (n :: ns) as es e) :
    ∃ a bs e', as = a :: bs ∧ e = some a :: e' ∧ a.length = n ∧ Answers ns bs es e' := by
  obtain ⟨hlen, rfl⟩ := h
  match as, hlen with
  | a :: bs, hlen =>
    obtain ⟨ha, hbs⟩ := List.cons_eq_cons.mp hlen
    exact ⟨a, bs, _, rfl, rfl, ha, hbs, rfl⟩

theorem failsWithin_cons (h : FailsWithin (n :: ns) es e) :
    e = none :: es ∨ ∃ a e', e = some a :: e' ∧ a.length = n ∧ FailsWithin ns es e' := by
  obtain ⟨as, k, hk, hans⟩ := h
  cases k with
  | zero =>
    obtain ⟨hlen, rfl⟩ := hans
    exact .inl (by rw [List.map_eq_nil_iff.mp hlen]; rfl)
  | succ k =>
    obtain ⟨a, bs, e', -, he, ha, hans⟩ := answers_cons hans
    exact .inr ⟨a, e', he, ha, bs, k, Nat.lt_of_succ_lt_succ hk, hans⟩

theorem not_failsWithin_nil : ¬ FailsWithin [] es e := fun ⟨_, _, hk, _⟩ => Nat.not_lt_zero _ hk

variable (p : Bool) (l : List Byte) (d : Nat) (s : State)

/-- A field against a script that answers its request: its bytes, and the script left for the next field. -/
theorem fieldOrDraw_answered {as : List (List Byte)} (h : Answers (fieldRequests p n ++ ns) as es e) :
    fieldOrDraw p l n (scripted d e s) = some (if p then l else as.getD 0 []) ∧
      ∃ d' e', afterField p (scripted d e s) = scripted d' e' s ∧ Answers ns (as.drop (oneIfDrawn p)) es e' := by
  cases p with
  | true => exact ⟨rfl, d, e, rfl, h⟩
  | false =>
    obtain ⟨a, bs, e', rfl, rfl, ha, hbs⟩ := answers_cons h
    exact ⟨nextEntropy_scripted_cons n d e' s ha, d + 1, e', rfl, hbs⟩

/-- A field against a script that fails: its own request fails, or the script fails within the later requests. -/
theorem fieldOrDraw_failing (h : FailsWithin (fieldRequests p n ++ ns) es e) :
    (fieldOrDraw p l n (scripted d e s) = none ∧ ∃ d', afterField p (scripted d e s) = scripted d' es s) ∨
      ∃ b d' e', fieldOrDraw p l n (scripted d e s) = some b ∧ afterField p (scripted d e s) = scripted d' e' s ∧
        FailsWithin ns es e' := by
  cases p with
  | true => exact .inr ⟨l, d, e, rfl, rfl, h⟩
  | false =>
    obtain rfl | ⟨a, e', rfl, ha, hrest⟩ := failsWithin_cons h
    · exact .inl ⟨nextEntropy_scripted_fail n d es s, d + 1, rfl⟩
    · exact .inr ⟨a, d + 1, e', nextEntropy_scripted_cons n d e' s ha, rfl, hrest⟩

end

theorem fieldOrDraw_length {p : Bool} {l b : List Byte} {n : Nat} {s : State} (hl : p = true → l.length = n)
    (h : fieldOrDraw p l n s = some b) : b.length = n := by
  cases p with
  | true => cases h; exact hl rfl
  | false => exact nextEntropy_length h

/-- A script that fails within the requests ends in RandomSourceFailure and is left from its failure on (R257). -/
theorem drawAndCommit_failing (c : Cfg) (f : Supplied) (d : Nat) (s : State) {es e : List (Option (List Byte))}
    (h : FailsWithin (requestSizes c) es e) :
    ∃ d', drawAndCommit c f (scripted d e s) = raise (err0 .randomSourceFailure 0) (scripted d' es s) := by
  rw [requestSizes_eq] at h
  obtain ⟨hpub, d1, h1⟩ | ⟨pub, d1, e1, hpub, h1, h⟩ := fieldOrDraw_failing c.pubP f.pub d s h
  · exact ⟨d1, by simp only [drawAndCommit, publicIdOrDraw_eq, h1, hpub, Option.map_none]⟩
  obtain ⟨hpriv, d2, h2⟩ | ⟨priv, d2, e2, hpriv, h2, h⟩ := fieldOrDraw_failing c.privP f.priv d1 s h
  · exact ⟨d2, by simp only [drawAndCommit, publicIdOrDraw_eq, h1, hpub, Option.map_some, h2, hpriv]⟩
  obtain ⟨hkey, d3, h3⟩ | ⟨key, d3, e3, hkey, h3, h⟩ := fieldOrDraw_failing c.keyP f.key d2 s h
  · exact ⟨d3, by simp only [drawAndCommit, publicIdOrDraw_eq, h1, hpub, Option.map_some, h2, hpriv, h3, hkey]⟩
  obtain rfl | ⟨_, _, _, _, hnil⟩ := failsWithin_cons h
  · exact ⟨d3 + 1, by simp only [drawAndCommit, publicIdOrDraw_eq, h1, hpub, Option.map_some, h2, hpriv, h3, hkey,
      nextEntropy_scripted_fail, popEntropy_scripted, List.tail_cons]⟩
  · exact absurd hnil not_failsWithin_nil

/-- Settles O52: the script of the statement fails within the requests of the configuration. -/
theorem tokCreateFailsWholly : Obligations.TokCreateFailsWholly := by
  unfold Obligations.TokCreateFailsWholly
  intro s as es k hlen hpub hpriv hkey hk has he
  obtain ⟨d, hd⟩ := drawAndCommit_failing s.cfg (suppliedOf s) (s.draws + 1) s ⟨as, k, hk, has, he⟩
  refine ⟨d, ?_⟩
  rw [exec_tokCreate_fits hlen hpub hpriv hkey, tick_eq_scripted, hd]
  rfl

/-! ### The commit (R250, R255, R256) -/

theorem seedOf_toNat (b : List Byte) : (seedOf b).toNat = (b.getD 0 0).toNat + 256 * (b.getD 1 0).toNat := by
  rw [seedOf, toNat_append_eq]
  omega

/-- Everything a commit writes, the last draw and the sample being the next of the script (R250, R256). -/
theorem commit_eq (d : Nat) (es : List (Option (List Byte))) {τ : Nat} {ts : List Nat} {s : State}
    (hts : s.ports.time = τ :: ts) (pub priv key : List Byte) (seed : BitVec 16) :
    complete { popTime (scripted d es s) with tok := newToken pub priv key seed (nextStamp (scripted d es s)) } =
      { succeeded s with
        tok := newToken pub priv key seed (BitVec.ofNat 24 τ)
        draws := d + 1
        ports := { s.ports with entropy := es, time := ts } } := by
  simp only [complete, popTime, nextStamp, nextTime, scripted, tick, succeeded, hts, List.headD_cons, List.tail_cons]

/-- The first of the answers that `j` requests leave. -/
theorem drop_getD_zero (as : List (List Byte)) (j : Nat) : (as.drop j).getD 0 [] = as.getD j [] := by
  simp [List.getD_eq_getElem?_getD]

/-- Answered requests give fields of their registers' lengths, supplied or drawn, and the commit follows (R254). -/
theorem drawAndCommit_answered {s : State} (hpubFits : PubFits s) (hprivFits : PrivFits s) (hkeyFits : KeyFits s)
    (d : Nat) {as : List (List Byte)} {es e : List (Option (List Byte))} (h : Answers (requestSizes s.cfg) as es e) :
    ((pubFrom s as).length = 12 ∧ (privFrom s as).length = 6 ∧ (keyFrom s as).length = 16) ∧
      ∃ d', drawAndCommit s.cfg (suppliedOf s) (scripted d e s) = complete { popTime (scripted d' es s) with
        tok := newToken (pubFrom s as) (privFrom s as) (keyFrom s as) (seedOf (seedFrom s as))
          (nextStamp (scripted d' es s)) } := by
  rw [requestSizes_eq] at h
  obtain ⟨hfirst, d1, e1, h1, h⟩ := fieldOrDraw_answered s.cfg.pubP (suppliedPub s) d s h
  obtain ⟨hpriv, d2, e2, h2, h⟩ := fieldOrDraw_answered s.cfg.privP (suppliedPriv s) d1 s h
  obtain ⟨hkey, d3, e3, h3, h⟩ := fieldOrDraw_answered s.cfg.keyP (suppliedKey s) d2 s h
  obtain ⟨seed, bs, e4, hseed, rfl, hlen, hnil, rfl⟩ := answers_cons h
  have hpub : publicIdOrDraw s.cfg.pubP (suppliedPub s) (scripted d e s) = some (pubFrom s as) := by
    rw [publicIdOrDraw_eq, hfirst, pubFrom]
    cases s.cfg.pubP <;> rfl
  rw [drop_getD_zero] at hpriv
  rw [List.drop_drop, drop_getD_zero] at hkey
  have hlast : seedFrom s as = seed := by
    rw [List.drop_drop, List.drop_drop] at hseed
    rw [seedFrom, ← drop_getD_zero, Nat.add_assoc, hseed]
    rfl
  obtain rfl : bs = [] := List.map_eq_nil_iff.mp hnil
  refine ⟨⟨?_, ?_, ?_⟩, d3 + 1, ?_⟩
  · exact (publicIdOrDraw_isMh (checkPublicId_of_fits hpubFits) hpub).1
  · exact fieldOrDraw_length (suppliedPriv_length_of_fits hprivFits) hpriv
  · exact fieldOrDraw_length (suppliedKey_length_of_fits hkeyFits) hkey
  · simp only [drawAndCommit, suppliedOf, hpub, h1, h2, hpriv, h3, hkey, hlast, nextEntropy_scripted_cons 2 _ _ _ hlen,
      popEntropy_scripted, List.tail_cons]
    rfl

/-- Settles O51: the script answers every request of the configuration, and the fields stand in the new token. -/
theorem tokCreateCommitsTheToken : Obligations.TokCreateCommitsTheToken := by
  unfold Obligations.TokCreateCommitsTheToken
  refine ⟨fun s => exec_tokCreate_long, fun s as es τ ts hlen hpub hpriv hkey has he hts => ?_⟩
  obtain ⟨⟨hpubLen, hprivLen, hkeyLen⟩, d, hd⟩ :=
    drawAndCommit_answered hpub hpriv hkey (s.draws + 1) ⟨has, he⟩
  refine ⟨newToken (pubFrom s as) (privFrom s as) (keyFrom s as) (seedOf (seedFrom s as)) (BitVec.ofNat 24 τ), d + 1,
    ?_, rfl, fieldBytes_packBytes 12 _ hpubLen, fieldBytes_packBytes 6 _ hprivLen, fieldBytes_packBytes 16 _ hkeyLen,
    rfl, rfl, rfl, seedOf_toNat (seedFrom s as)⟩
  rw [exec_tokCreate_fits hlen hpub hpriv hkey, tick_eq_scripted, hd, commit_eq d es hts]

end Sys2Proof.Proofs
end

/-! The OTP parser (O58, O59): its check of the syntax, and its two commands. -/

section

namespace Sys2Proof.Proofs

open Sys2Proof.Machine Sys2Proof.Claims

/-! ### The syntax check (R300, R301, R327) -/

theorem checkOtp_of_length_ne {S : List Byte} (h : S.length ≠ 44) : checkOtp S = .error (err0 .otpInvalidLength 0) :=
  if_pos h

theorem checkOtp_of_length_eq {S : List Byte} (h : S.length = 44) : checkOtp S = scan isMh .otpInvalidFormat 0 S :=
  if_neg (not_not_intro h)

theorem checkOtp_of_firstOffender {S : List Byte} {k : Nat} (h44 : S.length = 44)
    (h : FirstOffender (· ∈ alphabet) S k) : checkOtp S = .error ⟨.otpInvalidFormat, 0, BitVec.ofNat 32 k⟩ := by
  rw [checkOtp_of_length_eq h44]
  exact scan_of_firstOffender isMh_iff_mem_alphabet _ _ h

theorem checkOtp_of_forall_mem_alphabet {S : List Byte} (h44 : S.length = 44) (h : ∀ c ∈ S, c ∈ alphabet) :
    checkOtp S = .ok () := by
  rw [checkOtp_of_length_eq h44]
  exact scan_ok isMh _ _ S (isMh_of_forall_mem_alphabet h)

theorem input_length_eq_44_iff (s : State) : (Claims.input s).length = 44 ↔ s.inLen = 44 := by
  rw [input_length]
  exact BitVec.toNat_inj (y := 44)

/-! ### The commands' meanings (R301, R302) -/

theorem exec_otpValidate (s : State) : exec .otpValidate s = .next (runString validateOtp setResInt s) := rfl

theorem exec_otpExtractPid (s : State) : exec .otpExtractPid s = .next (runString extractPid writeOut s) := rfl

section

/-! A command that checks the syntax first has its two errors. -/

variable {i : Instr} {s : State} {α : Type} {f : List Byte → Except CmdError α} {w : α → State → State}
  (hexec : exec i s = .next (runString f w s)) (hlen : s.inLen.toNat ≤ 256)
  (hf : ∀ x, checkOtp (Claims.input s) = .error x → f (Claims.input s) = .error x)

include hexec hlen hf

theorem exec_of_otpLength_ne (h : s.inLen ≠ 44) : exec i s = .next (failed .otpInvalidLength 0 0 (readOnce s)) :=
  exec_of_error hexec hlen (hf _ (checkOtp_of_length_ne (mt (input_length_eq_44_iff s).mp h)))

theorem exec_of_otpOffender (h : s.inLen = 44) {k : Nat} (hk : FirstOffender (· ∈ alphabet) (Claims.input s) k) :
    exec i s = .next (failed .otpInvalidFormat 0 (BitVec.ofNat 32 k) (readOnce s)) :=
  exec_of_error hexec hlen (hf _ (checkOtp_of_firstOffender ((input_length_eq_44_iff s).mpr h) hk))

end

/-! ### OTP_VALIDATE (R301) -/

theorem validateOtp_of_forall_mem_alphabet {S : List Byte} (h44 : S.length = 44) (h : ∀ c ∈ S, c ∈ alphabet) :
    validateOtp S = .ok (BitVec.ofNat 64 (placeValue (S.take 12))) := by
  rw [validateOtp_ok (checkOtp_of_forall_mem_alphabet h44 h),
    modhexValue_eq_placeValue fun c hc => h c (List.mem_of_mem_take hc)]

/-- 12 characters have 48 bits. -/
theorem placeValue_take_lt {S : List Byte} (h : ∀ c ∈ S, c ∈ alphabet) : placeValue (S.take 12) < 2 ^ 48 := calc
  placeValue (S.take 12) < 16 ^ (S.take 12).length := placeValue_lt fun c hc => h c (List.mem_of_mem_take hc)
  _ ≤ 16 ^ 12 := Nat.pow_le_pow_right (by decide) (List.length_take_le 12 S)

/-- Settles O58: the length, then the characters, then the value of the first 12, which needs 48 of RES_INT's 64 bits. -/
theorem otpValidateRule : Obligations.OtpValidateRule := by
  unfold Obligations.OtpValidateRule
  refine ⟨decodeWord_encodeWord .otpValidate, rangeChecked_of_exec exec_otpValidate, fun s hlen => ?_⟩
  have hexec := exec_otpValidate s
  refine ⟨exec_of_otpLength_ne hexec hlen fun _ => validateOtp_error,
    fun h44 k => exec_of_otpOffender hexec hlen (fun _ => validateOtp_error) h44, fun h44 hall => ?_⟩
  have hlt : placeValue ((Claims.input s).take 12) < 2 ^ 48 := placeValue_take_lt hall
  refine ⟨hlt, ?_⟩
  rw [exec_of_ok hexec hlen (validateOtp_of_forall_mem_alphabet ((input_length_eq_44_iff s).mpr h44) hall),
    setResInt_ofNat (hlt.trans (by decide))]
  rfl

/-! ### OTP_EXTRACT_PID (R302) -/

/-- Settles O59: the same check, then the first 12 characters as they stand. -/
theorem otpExtractPidRule : Obligations.OtpExtractPidRule := by
  unfold Obligations.OtpExtractPidRule
  refine ⟨decodeWord_encodeWord .otpExtractPid, rangeChecked_of_exec exec_otpExtractPid, fun s hlen => ?_⟩
  have hexec := exec_otpExtractPid s
  exact ⟨exec_of_otpLength_ne hexec hlen fun _ => extractPid_error,
    fun h44 k => exec_of_otpOffender hexec hlen (fun _ => extractPid_error) h44, fun h44 hall =>
      answersOut_of_ok hexec hlen
        (extractPid_ok (checkOtp_of_forall_mem_alphabet ((input_length_eq_44_iff s).mpr h44) hall))⟩

end Sys2Proof.Proofs
end

/-! How a command ends (O5, O7, O8, O12): the status that each form of a command's next state leaves, and the host steps before the block's step. -/

section

namespace Sys2Proof.Proofs

open Sys2Proof.Machine Sys2Proof.Claims

/-! ### The decoded command's step (R104, R324) -/

theorem blockStep_of_decodeWord_ok {w : Word} {i : Instr} (h : decodeWord w = .ok i) (s : State) :
    blockStep w s = exec i s := by
  simp only [blockStep, h]

/-- The table's word is decoded from its bytes, which make the word again (R73). -/
theorem decodeWord_of_decodeTableWord {n w : Nat} {i : Instr} (h : decodeTableWord n w = some i) :
    decodeWord (tableWord n w) = .ok i := by
  unfold decodeTableWord at h
  split at h
  · rename_i j rest hdecode
    cases h
    obtain ⟨hword, -⟩ := decode_cons_eq_ok_iff.mp hdecode
    rwa [wordOfBytes_bytesOfWord] at hword
  · cases h

theorem blockTurn_withFetchWord (s : State) (n w : Nat) : BlockTurn (s.withFetchWord n w) (tableWord n w) :=
  ⟨rfl, .inl rfl⟩

/-- Settles O5: the block's step is that of the decoded word, and a placed word gives the block its turn. -/
theorem stepRunsTheDecodedCommand : Obligations.StepRunsTheDecodedCommand := by
  unfold Obligations.StepRunsTheDecodedCommand
  have hstep (s : State) (w : Word) (i : Instr) (hturn : BlockTurn s w) (hdecode : decodeWord w = .ok i) :
      step s = exec i s :=
    (step_eq_blockStep_of_blockTurn hturn).trans (blockStep_of_decodeWord_ok hdecode s)
  exact ⟨hstep, fun s n i h => hstep _ _ i (blockTurn_withFetchWord s 32 n) (decodeWord_of_decodeTableWord h)⟩

/-! ### The status of a completed command (R325, R326) -/

/-- A command ends with an error of the tables, or with success and nothing said of an error. -/
theorem status_of_result {i : Instr} {s t : State} (h : Result i s t) :
    (t.err = true ∧ t.errCode ≠ .success) ∨
      (t.err = false ∧ t.errCode = .success ∧ t.errDetail = 0 ∧ t.errInfo = 0) := by
  cases h with
  | error x _ _ hx => exact .inl ⟨rfl, hx.1⟩
  | generateFailed => exact .inl ⟨rfl, nofun⟩
  | plain | bool | crc | int | out | create | advance | generate => exact .inr ⟨rfl, rfl, rfl, rfl⟩

/-- The block's step answers a next state of a command's forms. -/
theorem exists_result_of_blockTurn {s : State} {w : Word} (h : BlockTurn s w) :
    ∃ i t, step s = .next t ∧ Result i s t := by
  obtain ⟨i, t, hblock, hresult, -⟩ := blockStep_result w s
  exact ⟨i, t, (step_eq_blockStep_of_blockTurn h).trans hblock, hresult⟩

/-- Settles O7: by the forms of a command's next state. -/
theorem blockStepCompletesTheCommand : Obligations.BlockStepCompletesTheCommand := by
  unfold Obligations.BlockStepCompletesTheCommand
  intro s w hturn
  obtain ⟨i, t, hstep, hresult⟩ := exists_result_of_blockTurn hturn
  obtain ⟨hpend, hdone⟩ := completed_of_result hresult
  obtain ⟨hovr, -⟩ := operands_of_result hresult
  refine ⟨t, hstep, hpend, hdone, ?_, ?_, hovr⟩
  · obtain ⟨herr, hcode⟩ | ⟨herr, hcode, -⟩ := status_of_result hresult <;> simp [herr, hcode]
  · intro hok
    obtain ⟨herr, -⟩ | ⟨-, -, hdetail, hinfo⟩ := status_of_result hresult
    · simp [hok] at herr
    · exact ⟨hdetail, hinfo⟩

/-- Settles O12: of the forms of a command's next state two end with an error, and one of them is R267's. -/
theorem errorsLeaveNoEffect : Obligations.ErrorsLeaveNoEffect := by
  unfold Obligations.ErrorsLeaveNoEffect
  intro i s t hexec herr hexcept
  cases result_of_exec hexec with
  | error => rfl
  | generateFailed _ _ _ hi => exact absurd ⟨hi, rfl⟩ hexcept
  | plain | bool | crc | int | out | create | advance | generate => cases herr

/-! ### A host statement while a command is pending (R78, R106, R361) -/

/-- The outcome is a next state with nothing pending. -/
def EndsIdle (o : Out) : Prop := ∃ t, o = .next t ∧ t.pend = none

/-- The outcome is a next state in which the command waits as before, under the same host program. -/
def KeepsWaiting (s : State) (o : Out) : Prop :=
  ∃ t, o = .next t ∧ t.pend = s.pend ∧ t.delay = s.delay ∧ t.agent.prog = s.agent.prog ∧
    (s.agent.lastBusy ≠ none → t.agent.lastBusy ≠ none)

section

variable {s : State}

/-- A statement that moves only within the host's program. -/
theorem keepsWaiting_of_move {o : Out} {p : Nat} {ls : List (Nat × Nat)}
    (ho : o = .next { s with agent := { s.agent with pos := p, loops := ls } }) : KeepsWaiting s o :=
  ⟨_, ho, rfl, rfl, rfl, id⟩

theorem keepsWaiting_hostLoad {a : Nat} (ha : a < 0x400) (w : Width) : KeepsWaiting s (hostLoad w a s) := by
  refine ⟨_, hostLoad_window ha w s, rfl, rfl, rfl, fun hseen => ?_⟩
  simp only [afterLoad]
  split
  · exact Option.some_ne_none _
  · exact hseen

variable (h : s.pend ≠ none)
include h

/-- A write while busy leaves the latch and the delay. -/
theorem busWrite_pend_delay (w : Width) (a : Nat) (v : Word) :
    (busWrite w a v s).2.pend = s.pend ∧ (busWrite w a v s).2.delay = s.delay := by
  by_cases hfit : Misfit w a
  · rw [busWrite_misfit hfit]
    exact ⟨rfl, rfl⟩
  · rw [busWrite_busy h hfit]
    exact ⟨rfl, rfl⟩

theorem keepsWaiting_hostStore {a : Nat} (ha : a < 0x400) (w : Width) (v : Word) :
    KeepsWaiting s (hostStore w a v s) := by
  obtain ⟨hpend, hdelay⟩ := busWrite_pend_delay h w a v
  exact ⟨_, hostStore_window ha w v s, hpend, hdelay, rfl, id⟩

/-- Every statement of the host keeps the command waiting, resets the block or stops with a fault. -/
theorem hostStmt_of_pending (st : HostStmt) :
    EndsIdle (hostStmt st s) ∨ KeepsWaiting s (hostStmt st s) ∨ ∃ f, hostStmt st s = .fault f := by
  cases st with
  | st w a v =>
    by_cases ha : a < 0x400
    · exact .inr (.inl (keepsWaiting_hostStore h ha w v))
    · exact .inr (.inr ⟨_, hostStore_outside (Nat.not_lt.mp ha) w v s⟩)
  | ld w a =>
    by_cases ha : a < 0x400
    · exact .inr (.inl (keepsWaiting_hostLoad ha w))
    · exact .inr (.inr ⟨_, hostLoad_outside (Nat.not_lt.mp ha) w s⟩)
  | rep n =>
    by_cases hbody : ∃ body, Encloses s.agent body
    · obtain ⟨body, hbody⟩ := hbody
      refine .inr (.inl ?_)
      cases n with
      | zero => exact keepsWaiting_of_move (hostRep_zero hbody)
      | succ n => exact keepsWaiting_of_move (hostRep_succ hbody n)
    · exact .inr (.inr ⟨_, hostRep_unmatched (not_exists.mp hbody) n⟩)
  | endRep =>
    match hl : s.agent.loops with
    | [] => exact .inr (.inr ⟨_, hostEnd_unmatched hl⟩)
    | (p, 0) :: ls => exact .inr (.inl (keepsWaiting_of_move (hostEnd_lastRound hl)))
    | (p, n + 1) :: ls => exact .inr (.inl (keepsWaiting_of_move (hostEnd_nextRound hl)))
  | label l => exact .inr (.inl (keepsWaiting_of_move rfl))
  | bneBusy l =>
    match hseen : s.agent.lastBusy with
    | none => exact .inr (.inr ⟨_, hostBranch_beforeStatus hseen l⟩)
    | some false => exact .inr (.inl (keepsWaiting_of_move (hostBranch_notTaken hseen l)))
    | some true =>
      by_cases hl : .label l ∈ s.agent.prog
      · exact .inr (.inl (keepsWaiting_of_move (hostBranch_taken hseen hl)))
      · exact .inr (.inr ⟨_, hostBranch_noSuchLabel hseen hl⟩)
  | assertReset => exact .inl ⟨_, rfl, rfl⟩

/-- A polling host that has read STATUS stops with no fault (R106, R108). -/
theorem hostStmt_of_onlyAccesses (hprog : OnlyAccesses s.agent.prog) (hseen : s.agent.lastBusy ≠ none)
    {st : HostStmt} (hst : st ∈ s.agent.prog) : EndsIdle (hostStmt st s) ∨ KeepsWaiting s (hostStmt st s) := by
  obtain ⟨w, a, v, ha, rfl⟩ | ⟨w, a, ha, rfl⟩ | ⟨l, rfl⟩ | ⟨l, hl, rfl⟩ | rfl := hprog st hst
  · exact .inr (keepsWaiting_hostStore h ha w v)
  · exact .inr (keepsWaiting_hostLoad ha w)
  · exact .inr (keepsWaiting_of_move rfl)
  · match hbusy : s.agent.lastBusy with
    | none => exact absurd hbusy hseen
    | some false => exact .inr (keepsWaiting_of_move (hostBranch_notTaken hbusy l))
    | some true => exact .inr (keepsWaiting_of_move (hostBranch_taken hbusy hl))
  · exact .inl ⟨_, rfl, rfl⟩

end

/-! ### The latency runs out (R324, R369) -/

/-- A pending command's step is the block's, or a statement of the host that takes one off the delay. -/
theorem step_of_pending {s : State} (h : s.pend ≠ none) :
    EndsIdle (step s) ∨ ∃ st ∈ s.agent.prog, s.delay ≠ 0 ∧ step s = hostStmt st { s with delay := s.delay - 1 } := by
  obtain ⟨w, hp, hb, -⟩ | ⟨hturn, hs⟩ := step_agent s
  · obtain ⟨i, t, hstep, hresult⟩ := exists_result_of_blockTurn (blockTurn_of_blockNext hp hb)
    exact .inl ⟨t, hstep, (completed_of_result hresult).1⟩
  · obtain ⟨hdelay, hpos⟩ := (blockNext_eq_false_iff s).mp (hturn.resolve_left h)
    have hst := List.getElem?_eq_getElem hpos
    exact .inr ⟨_, List.getElem_mem hpos, hdelay, hs.trans (hostStep_of_getElem?_eq_some hst)⟩

theorem run_one (s : State) : Host.Core.run core 1 s = step s := by
  simp only [Host.Core.run, core]
  cases step s <;> rfl

theorem run_succ_of_step {s t : State} (h : step s = .next t) (k : Nat) :
    Host.Core.run core (k + 1) s = Host.Core.run core k t := by
  simp only [Host.Core.run, core, h]

/-- If from every state of `P` a step ends as wanted or stays in `P` with a smaller delay, a run ends as wanted within the delay and one step more. -/
theorem exists_run_within_delay {P : State → Prop} {Q : Out → Prop}
    (hstep : ∀ s, P s → Q (step s) ∨ ∃ t, step s = .next t ∧ t.delay < s.delay ∧ P t) (s : State) (h : P s) :
    ∃ k, 1 ≤ k ∧ k ≤ s.delay + 1 ∧ Q (Host.Core.run core k s) := by
  induction hd : s.delay using Nat.strong_induction_on generalizing s with
  | _ d ih =>
    obtain hq | ⟨t, ht, hlt, hpt⟩ := hstep s h
    · exact ⟨1, le_rfl, by omega, run_one s ▸ hq⟩
    · obtain ⟨k, -, hk, hq⟩ := ih t.delay (hd ▸ hlt) t hpt rfl
      exact ⟨k + 1, by omega, by omega, run_succ_of_step ht k ▸ hq⟩

/-- A command is pending under a polling host that has read STATUS. -/
def PolledCommand (s : State) : Prop :=
  s.pend ≠ none ∧ OnlyAccesses s.agent.prog ∧ s.agent.lastBusy ≠ none

theorem step_of_polledCommand {s : State} (h : PolledCommand s) :
    EndsIdle (step s) ∨ ∃ t, step s = .next t ∧ t.delay < s.delay ∧ PolledCommand t := by
  obtain ⟨hpend, hprog, hseen⟩ := h
  obtain hidle | ⟨st, hst, hdelay, hs⟩ := step_of_pending hpend
  · exact .inl hidle
  rw [hs]
  refine (hostStmt_of_onlyAccesses (s := { s with delay := s.delay - 1 }) hpend hprog hseen hst).imp_right ?_
  rintro ⟨t, ht, htpend, htdelay, htprog, htseen⟩
  refine ⟨t, ht, ?_, htpend ▸ hpend, htprog ▸ hprog, htseen hseen⟩
  rw [htdelay]
  exact Nat.pred_lt hdelay

theorem step_of_pending_anyHost {s : State} (h : s.pend ≠ none) :
    (EndsIdle (step s) ∨ ∃ f, step s = .fault f) ∨ ∃ t, step s = .next t ∧ t.delay < s.delay ∧ t.pend ≠ none := by
  obtain hidle | ⟨st, -, hdelay, hs⟩ := step_of_pending h
  · exact .inl (.inl hidle)
  rw [hs]
  obtain hidle | ⟨t, ht, htpend, htdelay, -⟩ | hfault :=
    hostStmt_of_pending (s := { s with delay := s.delay - 1 }) h st
  · exact .inl (.inl hidle)
  · refine .inr ⟨t, ht, ?_, htpend ▸ h⟩
    rw [htdelay]
    exact Nat.pred_lt hdelay
  · exact .inl (.inr hfault)

/-- Settles O8: each host step takes one off the delay, and at 0 the block's step completes the command. -/
theorem nothingIsPendingAfterTheLatency : Obligations.NothingIsPendingAfterTheLatency := by
  unfold Obligations.NothingIsPendingAfterTheLatency
  constructor
  · intro s hpend hprog hseen
    obtain ⟨k, hpos, hk, t, hrun, hidle⟩ :=
      exists_run_within_delay (Q := EndsIdle) (fun _ => step_of_polledCommand) s ⟨hpend, hprog, hseen⟩
    exact ⟨k, t, hpos, hk, hrun, hidle⟩
  · exact exists_run_within_delay (P := fun s => s.pend ≠ none) (Q := fun o => EndsIdle o ∨ ∃ f, o = .fault f)
      fun _ => step_of_pending_anyHost

end Sys2Proof.Proofs
end

/-! The reset input (O30). -/

section

namespace Sys2Proof.Proofs

open Sys2Proof.Machine Sys2Proof.Claims

/-- A reset entry keeps nothing of the block, its delay and a pending command included (R360, R361). -/
theorem hostStmt_assertReset (s : State) :
    hostStmt .assertReset s =
      .next { State.reset with draws := s.draws, ports := s.ports, agent := s.agent.advance } :=
  rfl

/-- Settles O30: in the host's turn the reset entry is the statement that runs, whether a command is pending or not. -/
theorem resetInputClearsTheBlock : Obligations.ResetInputClearsTheBlock := by
  unfold Obligations.ResetInputClearsTheBlock
  intro s hturn hreset
  calc step s = hostStep s := step_eq_hostStep_of_hostTurn hturn
    _ = hostStmt .assertReset { s with delay := s.delay - 1 } := hostStep_of_getElem?_eq_some hreset
    _ = _ := hostStmt_assertReset _

end Sys2Proof.Proofs
end
